-- ==== Sys2Proof/Word.lean ====
section
/-! DEFINITION. The word types of the machine (00_scope.md R6, R11). -/

namespace Sys2Proof

/-- A byte: a general register, a memory cell, a timer (R6, R20, R29, R31). -/
abbrev Byte := BitVec 8

/-- A 16-bit word: an instruction word, I, PC, a stack entry (R22, R23, R25, R90). -/
abbrev Word := BitVec 16

/-- The index of a general register, `V[0]` to `V[15]` (R20). -/
abbrev RegIdx := Fin 16

/-- An 8-bit value as an unsigned 16-bit one (R93: nothing is sign extended). -/
def Byte.toWord (b : Byte) : Word := b.setWidth 16

end Sys2Proof
end

