-- ==== Sys2Proof/Syntax.lean ====
section
/-! DEFINITION. The 34 instructions of 30_encoding.md R96, one constructor per row of opcode_table.json, in the
table's order. `x` and `y` are the fields X and Y, `nn`, `nnn` and `n` the immediates NN, NNN and N (R91). -/

namespace Sys2Proof

/-- The instruction set (R96). -/
inductive Instr where
  /-- `CLS`: clear screen (R210). -/
  | cls
  /-- `RET`: return (R143). -/
  | ret
  /-- `JP NNN`: jump (R142). -/
  | jp (nnn : BitVec 12)
  /-- `CALL NNN`: call subroutine (R144). -/
  | call (nnn : BitVec 12)
  /-- `SE Vx, NN`: skip if equal, immediate (R145). -/
  | seImm (x : RegIdx) (nn : Byte)
  /-- `SNE Vx, NN`: skip if not equal, immediate (R146). -/
  | sneImm (x : RegIdx) (nn : Byte)
  /-- `SE Vx, Vy`: skip if equal, register (R148). -/
  | seReg (x y : RegIdx)
  /-- `LD Vx, NN`: set register (R161). -/
  | ldImm (x : RegIdx) (nn : Byte)
  /-- `ADD Vx, NN`: add immediate (R162). -/
  | addImm (x : RegIdx) (nn : Byte)
  /-- `LD Vx, Vy`: register transfer (R163). -/
  | ldReg (x y : RegIdx)
  /-- `OR Vx, Vy` (R164). -/
  | or (x y : RegIdx)
  /-- `AND Vx, Vy` (R165). -/
  | and (x y : RegIdx)
  /-- `XOR Vx, Vy` (R166). -/
  | xor (x y : RegIdx)
  /-- `ADD Vx, Vy`: add with carry out (R167). -/
  | addReg (x y : RegIdx)
  /-- `SUB Vx, Vy`: subtract, X - Y (R168). -/
  | sub (x y : RegIdx)
  /-- `SHR Vx, Vy`: shift right by one (R170). -/
  | shr (x y : RegIdx)
  /-- `SUBN Vx, Vy`: reverse subtract, Y - X (R169). -/
  | subn (x y : RegIdx)
  /-- `SHL Vx, Vy`: shift left by one (R171). -/
  | shl (x y : RegIdx)
  /-- `SNE Vx, Vy`: skip if not equal, register (R149). -/
  | sneReg (x y : RegIdx)
  /-- `LD I, NNN`: set index (R190). -/
  | ldI (nnn : BitVec 12)
  /-- `JP V0, NNN`: jump with offset (R147). Its fields overlap: X is the top nibble of NNN (R97). -/
  | jpV0 (x : RegIdx) (nnn : BitVec 12)
  /-- `RND Vx, NN`: randomize (R172). -/
  | rnd (x : RegIdx) (nn : Byte)
  /-- `DRW Vx, Vy, N`: draw sprite (R211). -/
  | drw (x y : RegIdx) (n : BitVec 4)
  /-- `SKP Vx`: skip if key down (R230). -/
  | skp (x : RegIdx)
  /-- `SKNP Vx`: skip if key up (R231). -/
  | sknp (x : RegIdx)
  /-- `LD Vx, DT`: load delay timer (R234). -/
  | ldVxDt (x : RegIdx)
  /-- `LD Vx, K`: wait for key (R233). -/
  | ldVxK (x : RegIdx)
  /-- `LD DT, Vx`: set delay timer (R235). -/
  | ldDtVx (x : RegIdx)
  /-- `LD ST, Vx`: set sound timer (R236). -/
  | ldStVx (x : RegIdx)
  /-- `ADD I, Vx`: add to index (R191). -/
  | addI (x : RegIdx)
  /-- `LD F, Vx`: load font address (R192). -/
  | ldF (x : RegIdx)
  /-- `LD B, Vx`: store BCD (R193). -/
  | ldB (x : RegIdx)
  /-- `LD [I], Vx`: register dump (R194). -/
  | ldMemVx (x : RegIdx)
  /-- `LD Vx, [I]`: register load (R195). -/
  | ldVxMem (x : RegIdx)
  deriving DecidableEq, Repr

end Sys2Proof
end

