-- ==== Sys2Proof/WellFormed.lean ====
section
/-! DEFINITION. The one relation between an instruction's fields that their types do not say. -/

namespace Sys2Proof

/-- The top nibble of a 12-bit address: the field X of a word that holds NNN (30_encoding.md R91: `NNN = X ++ Y ++ N`). -/
def topNibble (nnn : BitVec 12) : RegIdx := (nnn.extractLsb' 8 4).toFin

/-- An instruction is well formed when fields that share bits of the word agree: in `JP V0, NNN` "the `X` field is the
top nibble of `NNN`" (30_encoding.md R97). Every other operand may take any value of its type (R93). -/
def Instr.wf (i : Instr) : Bool :=
  match i with
  | .jpV0 x nnn => decide (x = topNibble nnn)
  | .cls | .ret | .jp _ | .call _ | .seImm _ _ | .sneImm _ _ | .seReg _ _ | .ldImm _ _ | .addImm _ _ | .ldReg _ _
  | .or _ _ | .and _ _ | .xor _ _ | .addReg _ _ | .sub _ _ | .shr _ _ | .subn _ _ | .shl _ _ | .sneReg _ _
  | .ldI _ | .rnd _ _ | .drw _ _ _ | .skp _ | .sknp _ | .ldVxDt _ | .ldVxK _ | .ldDtVx _ | .ldStVx _ | .addI _
  | .ldF _ | .ldB _ | .ldMemVx _ | .ldVxMem _ => true

end Sys2Proof
end

