-- ==== Sys2Proof/Decode.lean ====
section
/-! DEFINITION. The decoder (30_encoding.md R91, R94, R96, R100), then the encoder written from the same table
(R92, R96). The patterns and the fields' places are the spec's general knowledge (92_eei_decisions.md D2,
assumption log 5); decoding is strict (D3, assumption log 7). -/

namespace Sys2Proof

/-! ## The fields of a word (R91) -/

/-- `C`, bits 15:12, the primary dispatch key. -/
def fieldC (op : Word) : BitVec 4 := op.extractLsb' 12 4

/-- `X`, bits 11:8. -/
def fieldX (op : Word) : RegIdx := (op.extractLsb' 8 4).toFin

/-- `Y`, bits 7:4. -/
def fieldY (op : Word) : RegIdx := (op.extractLsb' 4 4).toFin

/-- `N`, bits 3:0. -/
def fieldN (op : Word) : BitVec 4 := op.extractLsb' 0 4

/-- `NN`, bits 7:0. -/
def fieldNN (op : Word) : Byte := op.extractLsb' 0 8

/-- `NNN`, bits 11:0. -/
def fieldNNN (op : Word) : BitVec 12 := op.extractLsb' 0 12

/-! ## Decoding (R94) -/

/-- Why bytes are not decoded. -/
inductive Reject where
  /-- The word meets no row of R96: the spec's UNKNOWN (R94, R100). -/
  | unknown (op : Word)
  /-- Fewer than the two bytes of an instruction (R90). -/
  | truncated
  deriving DecidableEq, Repr

/-- Class 8 selects by `N`. -/
def decodeClass8 (op : Word) : Except Reject Instr :=
  let x := fieldX op
  let y := fieldY op
  if fieldN op = 0x0 then .ok (.ldReg x y)
  else if fieldN op = 0x1 then .ok (.or x y)
  else if fieldN op = 0x2 then .ok (.and x y)
  else if fieldN op = 0x3 then .ok (.xor x y)
  else if fieldN op = 0x4 then .ok (.addReg x y)
  else if fieldN op = 0x5 then .ok (.sub x y)
  else if fieldN op = 0x6 then .ok (.shr x y)
  else if fieldN op = 0x7 then .ok (.subn x y)
  else if fieldN op = 0xE then .ok (.shl x y)
  else .error (.unknown op)

/-- Class E selects by `NN`. -/
def decodeClassE (op : Word) : Except Reject Instr :=
  if fieldNN op = 0x9E then .ok (.skp (fieldX op))
  else if fieldNN op = 0xA1 then .ok (.sknp (fieldX op))
  else .error (.unknown op)

/-- Class F selects by `NN`. -/
def decodeClassF (op : Word) : Except Reject Instr :=
  let x := fieldX op
  if fieldNN op = 0x07 then .ok (.ldVxDt x)
  else if fieldNN op = 0x0A then .ok (.ldVxK x)
  else if fieldNN op = 0x15 then .ok (.ldDtVx x)
  else if fieldNN op = 0x18 then .ok (.ldStVx x)
  else if fieldNN op = 0x1E then .ok (.addI x)
  else if fieldNN op = 0x29 then .ok (.ldF x)
  else if fieldNN op = 0x33 then .ok (.ldB x)
  else if fieldNN op = 0x55 then .ok (.ldMemVx x)
  else if fieldNN op = 0x65 then .ok (.ldVxMem x)
  else .error (.unknown op)

/-- The decoder of R94: a function of the 16-bit word alone. The last branch is class F. -/
def decodeWord (op : Word) : Except Reject Instr :=
  let c := fieldC op
  if c = 0x0 then
    if op = 0x00E0 then .ok .cls
    else if op = 0x00EE then .ok .ret
    else .error (.unknown op)
  else if c = 0x1 then .ok (.jp (fieldNNN op))
  else if c = 0x2 then .ok (.call (fieldNNN op))
  else if c = 0x3 then .ok (.seImm (fieldX op) (fieldNN op))
  else if c = 0x4 then .ok (.sneImm (fieldX op) (fieldNN op))
  else if c = 0x5 then if fieldN op = 0 then .ok (.seReg (fieldX op) (fieldY op)) else .error (.unknown op)
  else if c = 0x6 then .ok (.ldImm (fieldX op) (fieldNN op))
  else if c = 0x7 then .ok (.addImm (fieldX op) (fieldNN op))
  else if c = 0x8 then decodeClass8 op
  else if c = 0x9 then if fieldN op = 0 then .ok (.sneReg (fieldX op) (fieldY op)) else .error (.unknown op)
  else if c = 0xA then .ok (.ldI (fieldNNN op))
  else if c = 0xB then .ok (.jpV0 (fieldX op) (fieldNNN op))
  else if c = 0xC then .ok (.rnd (fieldX op) (fieldNN op))
  else if c = 0xD then .ok (.drw (fieldX op) (fieldY op) (fieldN op))
  else if c = 0xE then decodeClassE op
  else decodeClassF op

/-- The word of two bytes in fetch order: the byte at the lower address is the high one (20_memory.md R63, D1;
assumption log 6). -/
def wordOfBytes (hi lo : Byte) : Word := hi ++ lo

/-- The decoder on a stream of bytes: the instruction and the rest, or a rejection by name. -/
def decodeBytes (bytes : List Byte) : Except Reject (Instr × List Byte) :=
  match bytes with
  | hi :: lo :: rest =>
    match decodeWord (wordOfBytes hi lo) with
    | .ok i => .ok (i, rest)
    | .error r => .error r
  | [_] => .error .truncated
  | [] => .error .truncated

/-! ## Encoding: the six formats of R92, then the 34 rows of R96 -/

/-- Format `ADDR`, `hNNN`. -/
def encodeAddr (c : BitVec 4) (nnn : BitVec 12) : Word := c ++ nnn

/-- Format `XIMM`, `hXNN`; with a fixed `nn`, format `XOP`, `hXhh`. -/
def encodeXImm (c : BitVec 4) (x : RegIdx) (nn : Byte) : Word := c ++ (BitVec.ofFin (w := 4) x ++ nn)

/-- Format `XYN`, `hXYN`; with a fixed `n`, format `XY`, `hXYh`. -/
def encodeXYN (c : BitVec 4) (x y : RegIdx) (n : BitVec 4) : Word :=
  c ++ (BitVec.ofFin (w := 4) x ++ (BitVec.ofFin (w := 4) y ++ n))

/-- The word of a well-formed instruction (R96). -/
def encode (i : Instr) : Word :=
  match i with
  | .cls => 0x00E0
  | .ret => 0x00EE
  | .jp nnn => encodeAddr 0x1 nnn
  | .call nnn => encodeAddr 0x2 nnn
  | .seImm x nn => encodeXImm 0x3 x nn
  | .sneImm x nn => encodeXImm 0x4 x nn
  | .seReg x y => encodeXYN 0x5 x y 0x0
  | .ldImm x nn => encodeXImm 0x6 x nn
  | .addImm x nn => encodeXImm 0x7 x nn
  | .ldReg x y => encodeXYN 0x8 x y 0x0
  | .or x y => encodeXYN 0x8 x y 0x1
  | .and x y => encodeXYN 0x8 x y 0x2
  | .xor x y => encodeXYN 0x8 x y 0x3
  | .addReg x y => encodeXYN 0x8 x y 0x4
  | .sub x y => encodeXYN 0x8 x y 0x5
  | .shr x y => encodeXYN 0x8 x y 0x6
  | .subn x y => encodeXYN 0x8 x y 0x7
  | .shl x y => encodeXYN 0x8 x y 0xE
  | .sneReg x y => encodeXYN 0x9 x y 0x0
  | .ldI nnn => encodeAddr 0xA nnn
  | .jpV0 _ nnn => encodeAddr 0xB nnn
  | .rnd x nn => encodeXImm 0xC x nn
  | .drw x y n => encodeXYN 0xD x y n
  | .skp x => encodeXImm 0xE x 0x9E
  | .sknp x => encodeXImm 0xE x 0xA1
  | .ldVxDt x => encodeXImm 0xF x 0x07
  | .ldVxK x => encodeXImm 0xF x 0x0A
  | .ldDtVx x => encodeXImm 0xF x 0x15
  | .ldStVx x => encodeXImm 0xF x 0x18
  | .addI x => encodeXImm 0xF x 0x1E
  | .ldF x => encodeXImm 0xF x 0x29
  | .ldB x => encodeXImm 0xF x 0x33
  | .ldMemVx x => encodeXImm 0xF x 0x55
  | .ldVxMem x => encodeXImm 0xF x 0x65

/-- A word as the hardware stores it, the byte of the lower address first (R63). -/
def bytesOfWord (op : Word) : List Byte := [op.extractLsb' 8 8, op.extractLsb' 0 8]

/-! ## The table's rows, and the host's view of a row -/

/-- The 34 rows of R96 as (number, match, mask): "a word `op` is this instruction exactly when `op & mask = match`". -/
def opcodeRows : List (Nat × Word × Word) :=
  [(1, 0x00E0, 0xFFFF), (2, 0x00EE, 0xFFFF), (3, 0x1000, 0xF000), (4, 0x2000, 0xF000), (5, 0x3000, 0xF000),
   (6, 0x4000, 0xF000), (7, 0x5000, 0xF00F), (8, 0x6000, 0xF000), (9, 0x7000, 0xF000)] ++
  [(10, 0x8000, 0xF00F), (11, 0x8001, 0xF00F), (12, 0x8002, 0xF00F), (13, 0x8003, 0xF00F), (14, 0x8004, 0xF00F),
   (15, 0x8005, 0xF00F), (16, 0x8006, 0xF00F), (17, 0x8007, 0xF00F), (18, 0x800E, 0xF00F), (19, 0x9000, 0xF00F)] ++
  [(20, 0xA000, 0xF000), (21, 0xB000, 0xF000), (22, 0xC000, 0xF000), (23, 0xD000, 0xF000), (24, 0xE09E, 0xF0FF),
   (25, 0xE0A1, 0xF0FF)] ++
  [(26, 0xF007, 0xF0FF), (27, 0xF00A, 0xF0FF), (28, 0xF015, 0xF0FF), (29, 0xF018, 0xF0FF), (30, 0xF01E, 0xF0FF),
   (31, 0xF029, 0xF0FF), (32, 0xF033, 0xF0FF), (33, 0xF055, 0xF0FF), (34, 0xF065, 0xF0FF)]

/-- The number of an instruction's row in R96. -/
def rowNumber (i : Instr) : Nat :=
  match i with
  | .cls => 1 | .ret => 2 | .jp _ => 3 | .call _ => 4 | .seImm _ _ => 5 | .sneImm _ _ => 6 | .seReg _ _ => 7
  | .ldImm _ _ => 8 | .addImm _ _ => 9 | .ldReg _ _ => 10 | .or _ _ => 11 | .and _ _ => 12 | .xor _ _ => 13
  | .addReg _ _ => 14 | .sub _ _ => 15 | .shr _ _ => 16 | .subn _ _ => 17 | .shl _ _ => 18 | .sneReg _ _ => 19
  | .ldI _ => 20 | .jpV0 _ _ => 21 | .rnd _ _ => 22 | .drw _ _ _ => 23 | .skp _ => 24 | .sknp _ => 25
  | .ldVxDt _ => 26 | .ldVxK _ => 27 | .ldDtVx _ => 28 | .ldStVx _ => 29 | .addI _ => 30 | .ldF _ => 31 | .ldB _ => 32
  | .ldMemVx _ => 33 | .ldVxMem _ => 34

/-- The word whose bits the table numbers `w` (bit 0 the least significant), the bits above `nbits` zero. -/
def tableWord (nbits w : Nat) : Word := BitVec.ofNat 16 (w % 2 ^ nbits)

/-- The instruction the decoder reads from the bytes of a row's word, laid out as the hardware stores them. -/
def decodeTableWord (nbits w : Nat) : Option Instr :=
  match decodeBytes (bytesOfWord (tableWord nbits w)) with
  | .ok (i, _) => some i
  | .error _ => none

end Sys2Proof
end

