-- ==== Sys2Proof/Config.lean ====
section
/-! DEFINITION. The fixed parameters of the block (00_scope.md R6), the quirk record `Q` (R7) and the free value of
the random input (42_alu.md R172). -/

namespace Sys2Proof

/-- `MEM_SIZE` (R6): addresses 0 to 4095 exist. -/
def Config.memSize : Nat := 4096

/-- `PROG_BASE` (R6): first byte of the program image, and the reset PC. -/
def Config.progBase : Nat := 0x200

/-- `MAX_IMAGE` (R6): the largest program image, in bytes. -/
def Config.maxImage : Nat := Config.memSize - Config.progBase

/-- The size of the font: 16 glyphs of 5 bytes (R6, R43). -/
def Config.fontSize : Nat := 80

/-- The random byte consumed by the `n`-th execution of RND when the host has supplied none (R172: "The block assumes
nothing about the byte"). It has no body, so nothing can be proved of its value. Assumption log 2. -/
opaque Config.freeRandomByte : Nat → Byte

/-- The quirk-configuration record `Q` (R7). It is an argument of reset and constant for the life of an instance
(10_state.md R32). -/
structure Quirks where
  /-- OR, AND and XOR write 0 to VF after their result. -/
  resetFlagOnLogicOps : Bool
  /-- SHR and SHL first copy `V[Y]` into `V[X]`. -/
  shiftUsesY : Bool
  /-- A register dump or load leaves I advanced by X + 1. -/
  incrementIndexOnBulkTransfer : Bool
  /-- Jump-with-offset adds `V[X]` and not `V[0]`. -/
  jumpOffsetUsesVx : Bool
  /-- The address of the first byte of the font. -/
  fontBase : Nat
  deriving DecidableEq, Repr

/-- The defaults of R7 (92_eei_decisions.md D5). Assumption log 9. -/
def Quirks.default : Quirks :=
  { resetFlagOnLogicOps := false, shiftUsesY := false, incrementIndexOnBulkTransfer := false,
    jumpOffsetUsesVx := false, fontBase := 0 }

/-- R7: "`Q.fontBase` is legal when `Q.fontBase + 80 <= 0x200`". -/
def Quirks.legal (q : Quirks) : Bool := decide (q.fontBase + Config.fontSize ≤ Config.progBase)

end Sys2Proof
end

