-- ==== Sys2Proof/Machine/State.lean ====
section
/-! DEFINITION. The state of the block (10_state.md), the fault record (60_exceptions.md R275), the reasons an
operation of the block may have no next state, and the state after reset. -/

namespace Sys2Proof.Machine

/-- Memory: the cells whose byte differs from what an unlisted address reads as, by strictly rising address
(Machine/Memory.lean says what that is, and the canonical form). -/
abbrev Memory := List Host.Cell

/-- The framebuffer `FB[r][c]`: 32 rows of 64 pixels, true = on (R27). -/
abbrev Framebuffer := Vector (Vector Bool 64) 32

/-- The faults of R270. -/
inductive FaultCode where
  | loadFault
  | addressFault
  | stackFault
  | unknownOpcodeFault
  deriving DecidableEq, Repr

/-- The kinds of R270; `none` for the faults that have no kinds. -/
inductive FaultKind where
  | none
  | fetch
  | execute
  | overflow
  | underflow
  deriving DecidableEq, Repr

/-- The fault record `(code, kind, pc, op, info)` that `step()` returns (R275). -/
structure FaultRecord where
  code : FaultCode
  kind : FaultKind
  /-- The address of the instruction; for kind `fetch` the PC at which the fetch was refused. -/
  pc : Word
  /-- The instruction word; absent for kind `fetch`. -/
  op : Option Word
  /-- The address of R272 for AddressFault, the target NNN for StackFault overflow, nothing otherwise. -/
  info : Option Nat
  deriving DecidableEq, Repr

/-- The state of one instance. The last three fields are the model's own: the ports of 00_scope.md R9 that carry data
into and out of `step()`, which 10_state.md R35 says are not state of the block. -/
structure State where
  /-- `V[0]` to `V[15]` (R20); `V[15]` is VF (R21). -/
  v : Vector Byte 16
  /-- The index register `I` (R22). -/
  i : Word
  /-- The program counter (R23). -/
  pc : Word
  /-- `STACK[0]` to `STACK[11]` (R25). -/
  stack : Vector Word 12
  /-- `SP`, the depth of the call stack, 0 to 12 (R25, R26; assumption log 17). -/
  sp : Fin 13
  /-- The framebuffer (R27). -/
  fb : Framebuffer
  /-- The delay timer `DT` (R29). -/
  dt : Byte
  /-- The sound timer `ST` (R29). -/
  st : Byte
  /-- The key latch: `keys[k]` true = key k is down (R30). -/
  keys : Vector Bool 16
  /-- `MEM[0]` to `MEM[4095]` (R31). -/
  mem : Memory
  /-- The configuration record `Q`, constant after reset (R32). -/
  q : Quirks
  /-- The `rnd` input: bytes the host has supplied and no RND has consumed yet, next first (assumption log 2). -/
  rndQueue : List Byte
  /-- How many bytes RND has consumed so far (assumption log 2). -/
  rndDrawn : Nat
  /-- The `fault` output: the record the last `step()` returned, if any (R275; assumption log 1). -/
  report : Option FaultRecord
  deriving DecidableEq, Repr

/-- Why the block stops. No `step()` of the spec stops it: the faults of R272 to R274 are reported in a next state
(R126, R276). -/
inductive Fault where
  /-- LoadFault with the image's length (R271): "fatal, aborts startup". Raised by `State.boot` alone. Safe: the spec
  says that no machine exists then. -/
  | loadFault (length : Nat)
  deriving DecidableEq, Repr

/-- Why the model gives no next state. -/
inductive Refusal where
  /-- An instruction without a meaning yet, by its mnemonic. Raised by a refused arm of `exec` alone; no arm is one.
  Safe. -/
  | notModelled (mnemonic : String)
  /-- `reset` refuses a configuration whose `fontBase` is out of range (R7, R310). Raised by `State.boot` alone. Safe:
  the spec says it is refused. -/
  | illegalFontBase (base : Nat)
  deriving DecidableEq, Repr

/-- The framebuffer with every pixel off. -/
def Framebuffer.empty : Framebuffer := Vector.replicate 32 (Vector.replicate 64 false)

/-- The machine after `reset` with the default `Q` and the empty image (70_reset_and_hazards.md R310, R311): memory
reads as the font and zeros, so nothing is listed. Assumption logs 3, 4 and 20. -/
def State.reset : State :=
  { v := Vector.replicate 16 0
    i := 0
    pc := BitVec.ofNat 16 Config.progBase
    stack := Vector.replicate 12 0
    sp := 0
    fb := Framebuffer.empty
    dt := 0
    st := 0
    keys := Vector.replicate 16 false
    mem := []
    q := Quirks.default
    rndQueue := []
    rndDrawn := 0
    report := none }

end Sys2Proof.Machine
end

