-- ==== Sys2Proof/Machine/Memory.lean ====
section
/-! DEFINITION. Memory: what an unlisted address reads as, reading and writing one byte, the canonical form. -/

namespace Sys2Proof.Machine

/-- The font's glyphs 0 to 7, five bytes each, top row first (10_state.md R43; assumption log 4). -/
def fontBytesLow : List Byte :=
  [0xF0, 0x90, 0x90, 0x90, 0xF0] ++ [0x20, 0x60, 0x20, 0x20, 0x70] ++ [0xF0, 0x10, 0xF0, 0x80, 0xF0] ++
  [0xF0, 0x10, 0xF0, 0x10, 0xF0] ++ [0x90, 0x90, 0xF0, 0x10, 0x10] ++ [0xF0, 0x80, 0xF0, 0x10, 0xF0] ++
  [0xF0, 0x80, 0xF0, 0x90, 0xF0] ++ [0xF0, 0x10, 0x20, 0x40, 0x40]

/-- The font's glyphs 8 to F. -/
def fontBytesHigh : List Byte :=
  [0xF0, 0x90, 0xF0, 0x90, 0xF0] ++ [0xF0, 0x90, 0xF0, 0x10, 0xF0] ++ [0xF0, 0x90, 0xF0, 0x90, 0x90] ++
  [0xE0, 0x90, 0xE0, 0x90, 0xE0] ++ [0xF0, 0x80, 0x80, 0x80, 0xF0] ++ [0xE0, 0x90, 0x90, 0x90, 0xE0] ++
  [0xF0, 0x80, 0xF0, 0x80, 0xF0] ++ [0xF0, 0x80, 0xF0, 0x80, 0x80]

/-- `FONT[0]` to `FONT[79]` (R43): glyph d is bytes 5d to 5d + 4. -/
def fontBytes : List Byte := fontBytesLow ++ fontBytesHigh

/-- What an address with no entry reads as: the contents the default `reset` leaves (10_state.md R53), the font at
0x000 and 0 elsewhere. -/
def Memory.unlisted (a : Nat) : Byte := fontBytes.getD a 0

/-- `MEM[a]`. -/
def Memory.read (m : Memory) (a : Nat) : Byte :=
  match m with
  | [] => Memory.unlisted a
  | (b, w) :: rest => if a = b then w else Memory.read rest a

/-- The cell for byte `w` at `a` put before `rest`, or none where it would only say what an unlisted address reads as. -/
def Memory.put (a : Nat) (w : Byte) (rest : Memory) : Memory :=
  if w = Memory.unlisted a then rest else (a, w) :: rest

/-- `MEM[a] <- w`, keeping the canonical form. -/
def Memory.write (m : Memory) (a : Nat) (w : Byte) : Memory :=
  match m with
  | [] => Memory.put a w []
  | (b, u) :: rest =>
    if a < b then Memory.put a w ((b, u) :: rest)
    else if a = b then Memory.put a w rest
    else (b, u) :: Memory.write rest a w

/-- The canonical form from address `lo` up: addresses strictly rising and inside memory, and no entry equal to what
its address reads as unlisted. -/
def Memory.wfFrom (lo : Nat) (m : Memory) : Bool :=
  match m with
  | [] => true
  | (b, w) :: rest =>
    decide (lo ≤ b) && decide (b < Config.memSize) && decide (w ≠ Memory.unlisted b) && Memory.wfFrom (b + 1) rest

/-- The canonical form of a memory. -/
def Memory.wf (m : Memory) : Bool := Memory.wfFrom 0 m

/-- The canonical memory whose byte at each of the `n` addresses from `lo` is given by `contents`. -/
def Memory.ofContents (contents : Nat → Byte) (lo n : Nat) : Memory :=
  match n with
  | 0 => []
  | k + 1 => Memory.put lo (contents lo) (Memory.ofContents contents (lo + 1) k)

end Sys2Proof.Machine
end

