-- ==== Sys2Proof/Machine/Ops.lean ====
section
/-! DEFINITION. The named operations over registers, stack, memory, display and the `rnd` input that the meanings are
written in, the fetch, and the raising of a fault. -/

namespace Sys2Proof.Machine

/-! ## Registers (10_state.md R20 to R24) -/

/-- VF is register 15 (R21). -/
def vf : RegIdx := 15

/-- `V[r]`. -/
def State.readV (s : State) (r : RegIdx) : Byte := s.v.get r

/-- `V[r] <- b`. -/
def State.writeV (s : State) (r : RegIdx) (b : Byte) : State := { s with v := s.v.set r b }

/-- `I <- w` (R22). -/
def State.setIndex (s : State) (w : Word) : State := { s with i := w }

/-- `pc <- w` (R12). -/
def State.setPc (s : State) (w : Word) : State := { s with pc := w }

/-- `DT <- b` (R29). -/
def State.setDelay (s : State) (b : Byte) : State := { s with dt := b }

/-- `ST <- b` (R29). -/
def State.setSound (s : State) (b : Byte) : State := { s with st := b }

/-- A skip: "PC += 2" on top of the advance already made, when the condition holds (41_control_flow.md R141). -/
def State.skipIf (s : State) (cond : Bool) : State := if cond then s.setPc (s.pc + 2) else s

/-! ## Call stack (R25) -/

/-- `STACK[SP] <- w; SP <- SP + 1`, on a stack that is not full. -/
def State.push (s : State) (w : Word) (h : s.sp.val < 12) : State :=
  { s with stack := s.stack.set s.sp.val w, sp := ⟨s.sp.val + 1, by omega⟩ }

/-- `SP <- SP - 1; pc <- STACK[SP]`, on a stack that is not empty. -/
def State.popToPc (s : State) (h : 0 < s.sp.val) : State :=
  { s with sp := ⟨s.sp.val - 1, by omega⟩, pc := s.stack[s.sp.val - 1]'(by omega) }

/-! ## Memory (00_scope.md R13, 20_memory.md R69) -/

/-- `MEM[a]`. -/
def State.readByte (s : State) (a : Nat) : Byte := s.mem.read a

/-- `MEM[a] <- b`. -/
def State.writeByte (s : State) (a : Nat) (b : Byte) : State := { s with mem := s.mem.write a b }

/-- The `n` bytes from `base` all exist: the address of the last one, an unbounded number, is below 4096 (R69, R196).
A transfer of no bytes touches no address. -/
def transferFits (base n : Nat) : Bool := n == 0 || decide (base + n ≤ Config.memSize)

/-- `MEM[base + k] <- V[k]` for k in 0 .. n-1, ascending (43_index_memory.md R194). -/
def State.dumpRegs (s : State) (base n : Nat) : State :=
  match n with
  | 0 => s
  | k + 1 => (s.dumpRegs base k).writeByte (base + k) (s.readV (Fin.ofNat 16 k))

/-- `V[k] <- MEM[base + k]` for k in 0 .. n-1, ascending (43_index_memory.md R195). -/
def State.loadRegs (s : State) (base n : Nat) : State :=
  match n with
  | 0 => s
  | k + 1 => (s.loadRegs base k).writeV (Fin.ofNat 16 k) (s.readByte (base + k))

/-! ## Framebuffer (10_state.md R27, R28) -/

/-- `FB[r][c]`; there is no pixel outside the grid, and none is ever on there. -/
def Framebuffer.pixel (fb : Framebuffer) (r c : Nat) : Bool :=
  if h : r < 32 ∧ c < 64 then (fb[r]'h.1)[c]'h.2 else false

/-- `FB[r][c] <- b`, inside the grid. -/
def Framebuffer.setPixel (fb : Framebuffer) (r c : Nat) (b : Bool) : Framebuffer :=
  if h : r < 32 ∧ c < 64 then fb.set r ((fb[r]'h.1).set c b h.2) h.1 else fb

/-- The host's and the sprite unit's view of one pixel (44_display.md R216). -/
def State.pixel (s : State) (r c : Nat) : Bool := s.fb.pixel r c

/-! ## The random input (42_alu.md R172) -/

/-- The byte the next `rnd()` reads: the next one the host has supplied, else a free value. -/
def State.nextRandom (s : State) : Byte := s.rndQueue.headD (Config.freeRandomByte s.rndDrawn)

/-- One read of the `rnd` input consumes exactly one byte. -/
def State.consumeRandom (s : State) : State := { s with rndQueue := s.rndQueue.tail, rndDrawn := s.rndDrawn + 1 }

/-! ## Keys (10_state.md R30) -/

/-- `KEYS[k]`. -/
def State.key (s : State) (k : Fin 16) : Bool := s.keys.get k

/-- The smallest k in 0 .. 15 with `KEYS[k] = 1`, if any (45_keypad_timers.md R233; D19, assumption log 14). -/
def State.firstKey (s : State) : Option (Fin 16) := (List.finRange 16).find? fun k => s.key k

/-! ## Raising a fault (60_exceptions.md R275, R276) -/

/-- Fault entry: it "saves no state, changes no mode, pushes nothing, masks nothing, and transfers control nowhere"
(R276). The record is surfaced to the caller; pc stays where it is, and so the next `step()` goes on there (R278): there
is no return from a fault. -/
def State.raise (s : State) (r : FaultRecord) : State := { s with report := some r }

/-- The numeric codes of R270 (D21, assumption log 15). -/
def FaultCode.number (c : FaultCode) : Nat :=
  match c with
  | .loadFault => 1
  | .addressFault => 2
  | .stackFault => 3
  | .unknownOpcodeFault => 4

/-- The code `step()` returned: "Code 0 means *none*" (R270). -/
def State.reportCode (s : State) : Nat :=
  match s.report with
  | none => 0
  | some r => r.code.number

/-- The first out-of-range address of a transfer from `base` (R272: `max(I, 4096)`). -/
def faultAddress (base : Nat) : Nat := max base Config.memSize

/-- A fault raised while instruction `i` executes: the record's pc is the instruction's address, two below the advanced
PC (R122, R275), and its op the instruction's word. Assumption log 24. -/
def State.raiseExecute (s : State) (i : Instr) (code : FaultCode) (kind : FaultKind) (info : Option Nat) : State :=
  s.raise { code := code, kind := kind, pc := s.pc - 2, op := some (encode i), info := info }

/-- AddressFault of kind execute (R272). -/
def State.raiseAddress (s : State) (i : Instr) : State :=
  s.raiseExecute i .addressFault .execute (some (faultAddress s.i.toNat))

/-! ## Fetch (40_step_cycle.md R121, R122) -/

/-- Both bytes of the word at PC exist. -/
def State.canFetch (s : State) : Bool := transferFits s.pc.toNat 2

/-- `MEM[pc] ++ MEM[pc+1]` (20_memory.md R63). -/
def State.fetchWord (s : State) : Word := wordOfBytes (s.readByte s.pc.toNat) (s.readByte (s.pc.toNat + 1))

/-- The state in which an instruction executes: the advanced PC (R122), and no fault reported in this cycle yet. -/
def State.beginCycle (s : State) : State := { s with pc := s.pc + 2, report := none }

/-- AddressFault of kind fetch: nothing changes, the PC is not advanced (R121; D16, assumption log 10). -/
def State.raiseFetch (s : State) : State :=
  s.raise { code := .addressFault, kind := .fetch, pc := s.pc, op := none, info := some (faultAddress s.pc.toNat) }

/-- UnknownOpcodeFault, raised in the cycle begun from `s` (R125, R274). -/
def State.raiseUnknown (s : State) (op : Word) : State :=
  s.beginCycle.raise { code := .unknownOpcodeFault, kind := .none, pc := s.pc, op := some op, info := none }

/-- Where `withFetchWord` places a word: at PC where an instruction can be fetched there, else at the program base. -/
def State.fetchAddress (s : State) : Nat := if s.canFetch then s.pc.toNat else Config.progBase

/-- A word stored in fetch order at `a` (R63). -/
def State.storeWord (s : State) (a : Nat) (op : Word) : State :=
  (s.writeByte a (op.extractLsb' 8 8)).writeByte (a + 1) (op.extractLsb' 0 8)

end Sys2Proof.Machine
end

