-- ==== Sys2Proof/Machine/Flags.lean ====
section
/-! DEFINITION. The values the instructions write to VF (10_state.md R21). DRW's is in Machine/Display.lean. -/

namespace Sys2Proof.Machine

/-- A flag as the byte written to VF: 1 or 0. -/
def flagByte (b : Bool) : Byte := if b then 1 else 0

/-- Carry out of the 8-bit addition: the sum exceeds 255 (42_alu.md R167). -/
def carryOut (a b : Byte) : Byte := flagByte (decide (a.toNat + b.toNat > 255))

/-- No borrow: minuend greater than or equal to subtrahend (R160, R168, R169). -/
def noBorrow (a b : Byte) : Byte := flagByte (decide (a.toNat ≥ b.toNat))

/-- The bit a right shift by one loses (R170). -/
def lowBit (a : Byte) : Byte := a &&& 1

/-- The bit a left shift by one loses (R171). -/
def highBit (a : Byte) : Byte := (a >>> 7) &&& 1

/-- OR, AND and XOR write 0 to VF after their result, only under `Q.resetFlagOnLogicOps` (R164; D7, assumption log 8). -/
def State.logicFlag (s : State) : State := if s.q.resetFlagOnLogicOps then s.writeV vf 0 else s

end Sys2Proof.Machine
end

