-- ==== Sys2Proof/Machine/Operands.lean ====
section
/-! DEFINITION. The operand forms: what an instruction's fields, with the state and `Q`, name. -/

namespace Sys2Proof.Machine

/-- A 12-bit address immediate, zero-extended to 16 bits (30_encoding.md R93). -/
def addrWord (nnn : BitVec 12) : Word := nnn.setWidth 16

/-- The offset register of jump-with-offset: `V[X]` under `Q.jumpOffsetUsesVx`, else `V[0]` (41_control_flow.md R147;
D8, assumption log 9). -/
def State.jumpOffset (s : State) (x : RegIdx) : Byte := if s.q.jumpOffsetUsesVx then s.readV x else s.readV 0

/-- The shifts' first statement: "if Q.shiftUsesY: V[X] <- V[Y]" (42_alu.md R170, R171; D6, assumption log 9). -/
def State.shiftSource (s : State) (x y : RegIdx) : State := if s.q.shiftUsesY then s.writeV x (s.readV y) else s

/-- The key a skip tests: the low nibble of `V[X]` (45_keypad_timers.md R232). -/
def State.keyIndex (s : State) (x : RegIdx) : Fin 16 := ((s.readV x).extractLsb' 0 4).toFin

/-- The glyph address `(V[X] & 0xF) * 5 + Q.fontBase` (43_index_memory.md R192). -/
def State.glyphAddress (s : State) (x : RegIdx) : Word :=
  BitVec.ofNat 16 ((s.readV x &&& 0xF).toNat * 5 + s.q.fontBase)

/-- The hundreds, tens and units digits of an 8-bit value, each a whole byte (R193). -/
def bcdDigits (b : Byte) : Byte × Byte × Byte :=
  (BitVec.ofNat 8 (b.toNat / 100), BitVec.ofNat 8 (b.toNat / 10 % 10), BitVec.ofNat 8 (b.toNat % 10))

/-- The effective address of a data access at `offset` from I: an unbounded number (20_memory.md R69, R196). -/
def State.dataAddress (s : State) (offset : Nat) : Nat := s.i.toNat + offset

/-- How many bytes a dump or load of `V[0..=X]` moves: X + 1, X the field itself (R194). -/
def bulkCount (x : RegIdx) : Nat := x.val + 1

/-- After a dump or load, `I <- I + X + 1` under `Q.incrementIndexOnBulkTransfer` (R194, R195; D9, assumption log 9). -/
def State.advanceIndex (s : State) (x : RegIdx) : State :=
  if s.q.incrementIndexOnBulkTransfer then s.setIndex (s.i + BitVec.ofNat 16 (bulkCount x)) else s

/-- The column of a sprite's left edge: `V[X] mod 64` (44_display.md R211). -/
def State.spriteColumn (s : State) (x : RegIdx) : Nat := (s.readV x).toNat % 64

/-- The row of a sprite's top edge: `V[Y] mod 32` (R211). -/
def State.spriteRow (s : State) (y : RegIdx) : Nat := (s.readV y).toNat % 32

end Sys2Proof.Machine
end

