-- ==== Sys2Proof/Machine/Alu.lean ====
section
/-! DEFINITION. Register load, arithmetic, logic, shift and random instructions (42_alu.md). The writes stand in the
order of each rule's statements, and each statement reads the registers as the previous one left them (00_scope.md
R15, R173; D4, assumption log 8). -/

namespace Sys2Proof.Machine

/-- `LD Vx, NN` (R161). -/
def execLdImm (x : RegIdx) (nn : Byte) (s : State) : Host.Outcome State Fault Refusal :=
  .next (s.writeV x nn)

/-- `ADD Vx, NN` (R162): wraps modulo 256, no flag. -/
def execAddImm (x : RegIdx) (nn : Byte) (s : State) : Host.Outcome State Fault Refusal :=
  .next (s.writeV x (s.readV x + nn))

/-- `LD Vx, Vy` (R163). -/
def execLdReg (x y : RegIdx) (s : State) : Host.Outcome State Fault Refusal :=
  .next (s.writeV x (s.readV y))

/-- `OR Vx, Vy` (R164). -/
def execOr (x y : RegIdx) (s : State) : Host.Outcome State Fault Refusal :=
  .next (s.writeV x (s.readV x ||| s.readV y)).logicFlag

/-- `AND Vx, Vy` (R165). -/
def execAnd (x y : RegIdx) (s : State) : Host.Outcome State Fault Refusal :=
  .next (s.writeV x (s.readV x &&& s.readV y)).logicFlag

/-- `XOR Vx, Vy` (R166). -/
def execXor (x y : RegIdx) (s : State) : Host.Outcome State Fault Refusal :=
  .next (s.writeV x (s.readV x ^^^ s.readV y)).logicFlag

/-- `ADD Vx, Vy` (R167): both operands are read first, `V[X]` is written, VF is written last. -/
def execAddReg (x y : RegIdx) (s : State) : Host.Outcome State Fault Refusal :=
  .next ((s.writeV x (s.readV x + s.readV y)).writeV vf (carryOut (s.readV x) (s.readV y)))

/-- `SUB Vx, Vy` (R168): VF is written first, then `V[X]` from the registers as they then stand. -/
def execSub (x y : RegIdx) (s : State) : Host.Outcome State Fault Refusal :=
  let s1 := s.writeV vf (noBorrow (s.readV x) (s.readV y))
  .next (s1.writeV x (s1.readV x - s1.readV y))

/-- `SUBN Vx, Vy` (R169): as SUB, with the operands exchanged. -/
def execSubn (x y : RegIdx) (s : State) : Host.Outcome State Fault Refusal :=
  let s1 := s.writeV vf (noBorrow (s.readV y) (s.readV x))
  .next (s1.writeV x (s1.readV y - s1.readV x))

/-- `SHR Vx, Vy` (R170): the source copy under `Q.shiftUsesY`, then VF, then the shift of what `V[X]` then holds. -/
def execShr (x y : RegIdx) (s : State) : Host.Outcome State Fault Refusal :=
  let s1 := s.shiftSource x y
  let s2 := s1.writeV vf (lowBit (s1.readV x))
  .next (s2.writeV x (s2.readV x >>> 1))

/-- `SHL Vx, Vy` (R171). -/
def execShl (x y : RegIdx) (s : State) : Host.Outcome State Fault Refusal :=
  let s1 := s.shiftSource x y
  let s2 := s1.writeV vf (highBit (s1.readV x))
  .next (s2.writeV x (s2.readV x <<< 1))

/-- `RND Vx, NN` (R172). -/
def execRnd (x : RegIdx) (nn : Byte) (s : State) : Host.Outcome State Fault Refusal :=
  .next (s.consumeRandom.writeV x (s.nextRandom &&& nn))

end Sys2Proof.Machine
end

