-- ==== Sys2Proof/Machine/ControlFlow.lean ====
section
/-! DEFINITION. The control-transfer instructions (41_control_flow.md). On entry pc holds the advanced PC (R127). -/

namespace Sys2Proof.Machine

/-- `RET` (R143). -/
def execRet (s : State) : Host.Outcome State Fault Refusal :=
  if h : 0 < s.sp.val then .next (s.popToPc h)
  else .next (s.raiseExecute .ret .stackFault .underflow none)

/-- `JP NNN` (R142). -/
def execJp (nnn : BitVec 12) (s : State) : Host.Outcome State Fault Refusal :=
  .next (s.setPc (addrWord nnn))

/-- `CALL NNN` (R144): the pushed value is the advanced PC. On a full stack neither the push nor the jump is made (D18,
assumption log 13). -/
def execCall (nnn : BitVec 12) (s : State) : Host.Outcome State Fault Refusal :=
  if h : s.sp.val < 12 then .next ((s.push s.pc h).setPc (addrWord nnn))
  else .next (s.raiseExecute (.call nnn) .stackFault .overflow (some nnn.toNat))

/-- `SE Vx, NN` (R145). -/
def execSeImm (x : RegIdx) (nn : Byte) (s : State) : Host.Outcome State Fault Refusal :=
  .next (s.skipIf (decide (s.readV x = nn)))

/-- `SNE Vx, NN` (R146). -/
def execSneImm (x : RegIdx) (nn : Byte) (s : State) : Host.Outcome State Fault Refusal :=
  .next (s.skipIf (decide (s.readV x ≠ nn)))

/-- `SE Vx, Vy` (R148). -/
def execSeReg (x y : RegIdx) (s : State) : Host.Outcome State Fault Refusal :=
  .next (s.skipIf (decide (s.readV x = s.readV y)))

/-- `SNE Vx, Vy` (R149). -/
def execSneReg (x y : RegIdx) (s : State) : Host.Outcome State Fault Refusal :=
  .next (s.skipIf (decide (s.readV x ≠ s.readV y)))

/-- `JP V0, NNN` (R147): the sum is not masked to 12 bits. -/
def execJpV0 (x : RegIdx) (nnn : BitVec 12) (s : State) : Host.Outcome State Fault Refusal :=
  .next (s.setPc ((s.jumpOffset x).toWord + addrWord nnn))

end Sys2Proof.Machine
end

