-- ==== Sys2Proof/Machine/Display.lean ====
section
/-! DEFINITION. The display instructions, with the sprite compositor and the collision detector (44_display.md). -/

namespace Sys2Proof.Machine

/-- `CLS` (R210). -/
def execCls (s : State) : Host.Outcome State Fault Refusal := .next { s with fb := Framebuffer.empty }

/-- The inner statement of R211 for one sprite bit: where the bit is 1 and its pixel lies inside the grid (R212), a
pixel that is on is turned off and counts as a collision (R213), one that is off is turned on. The pair is the
framebuffer and whether a collision has been met so far. -/
def drawPixel (x y row : Nat) (b : Byte) (p : Framebuffer × Bool) (col : Nat) : Framebuffer × Bool :=
  if b.getLsbD (7 - col) = true ∧ x + col ≤ 63 ∧ y + row ≤ 31 then
    if p.1.pixel (y + row) (x + col) then (p.1.setPixel (y + row) (x + col) false, true)
    else (p.1.setPixel (y + row) (x + col) true, p.2)
  else p

/-- `for col in 0 .. 7`. -/
def drawRow (x y row : Nat) (b : Byte) (p : Framebuffer × Bool) : Framebuffer × Bool :=
  (List.range 8).foldl (drawPixel x y row b) p

/-- `for row in 0 .. n-1`, the row's byte read at `base + row`. -/
def drawRows (mem : Memory) (base x y n : Nat) (p : Framebuffer × Bool) : Framebuffer × Bool :=
  match n with
  | 0 => p
  | k + 1 => drawRow x y k (mem.read (base + k)) (drawRows mem base x y k p)

/-- `DRW Vx, Vy, N` (R211): all N bytes are range-checked, those of clipped rows too (R215; D14, assumption log 12); the
origin is read before VF is cleared (D15, assumption log 8); N = 0 reads nothing and cannot fault. -/
def execDrw (x y : RegIdx) (n : BitVec 4) (s : State) : Host.Outcome State Fault Refusal :=
  if transferFits s.i.toNat n.toNat then
    let p := drawRows s.mem s.i.toNat (s.spriteColumn x) (s.spriteRow y) n.toNat (s.fb, false)
    .next (State.writeV { s with fb := p.1 } vf (flagByte p.2))
  else .next (s.raiseAddress (.drw x y n))

end Sys2Proof.Machine
end

