-- ==== Sys2Proof/Machine/IndexMemory.lean ====
section
/-! DEFINITION. Index-register and memory instructions (43_index_memory.md). A memory instruction checks the whole range
it will touch before it changes anything (R196; D12, assumption log 12). -/

namespace Sys2Proof.Machine

/-- `LD I, NNN` (R190). -/
def execLdI (nnn : BitVec 12) (s : State) : Host.Outcome State Fault Refusal :=
  .next (s.setIndex (addrWord nnn))

/-- `ADD I, Vx` (R191): wraps within 16 bits, no flag. -/
def execAddI (x : RegIdx) (s : State) : Host.Outcome State Fault Refusal :=
  .next (s.setIndex (s.i + (s.readV x).toWord))

/-- `LD F, Vx` (R192). -/
def execLdF (x : RegIdx) (s : State) : Host.Outcome State Fault Refusal :=
  .next (s.setIndex (s.glyphAddress x))

/-- `LD B, Vx` (R193). -/
def execLdB (x : RegIdx) (s : State) : Host.Outcome State Fault Refusal :=
  if transferFits s.i.toNat 3 then
    let d := bcdDigits (s.readV x)
    .next (((s.writeByte (s.dataAddress 0) d.1).writeByte (s.dataAddress 1) d.2.1).writeByte (s.dataAddress 2) d.2.2)
  else .next (s.raiseAddress (.ldB x))

/-- `LD [I], Vx` (R194). -/
def execLdMemVx (x : RegIdx) (s : State) : Host.Outcome State Fault Refusal :=
  if transferFits s.i.toNat (bulkCount x) then .next ((s.dumpRegs s.i.toNat (bulkCount x)).advanceIndex x)
  else .next (s.raiseAddress (.ldMemVx x))

/-- `LD Vx, [I]` (R195). -/
def execLdVxMem (x : RegIdx) (s : State) : Host.Outcome State Fault Refusal :=
  if transferFits s.i.toNat (bulkCount x) then .next ((s.loadRegs s.i.toNat (bulkCount x)).advanceIndex x)
  else .next (s.raiseAddress (.ldVxMem x))

end Sys2Proof.Machine
end

