-- ==== Sys2Proof/Machine/KeypadTimers.lean ====
section
/-! DEFINITION. Keypad and timer instructions (45_keypad_timers.md). -/

namespace Sys2Proof.Machine

/-- `SKP Vx` (R230). -/
def execSkp (x : RegIdx) (s : State) : Host.Outcome State Fault Refusal :=
  .next (s.skipIf (s.key (s.keyIndex x)))

/-- `SKNP Vx` (R231). -/
def execSknp (x : RegIdx) (s : State) : Host.Outcome State Fault Refusal :=
  .next (s.skipIf (!s.key (s.keyIndex x)))

/-- `LD Vx, K` (R233): with no key down pc goes back to this instruction, which is then fetched again next cycle; with
a key down the smallest index down is stored (D19, assumption log 14). -/
def execLdVxK (x : RegIdx) (s : State) : Host.Outcome State Fault Refusal :=
  match s.firstKey with
  | none => .next (s.setPc (s.pc - 2))
  | some k => .next (s.writeV x (BitVec.ofNat 8 k.val))

/-- `LD Vx, DT` (R234). -/
def execLdVxDt (x : RegIdx) (s : State) : Host.Outcome State Fault Refusal := .next (s.writeV x s.dt)

/-- `LD DT, Vx` (R235). -/
def execLdDtVx (x : RegIdx) (s : State) : Host.Outcome State Fault Refusal := .next (s.setDelay (s.readV x))

/-- `LD ST, Vx` (R236). -/
def execLdStVx (x : RegIdx) (s : State) : Host.Outcome State Fault Refusal := .next (s.setSound (s.readV x))

end Sys2Proof.Machine
end

