-- ==== Sys2Proof/Machine/Step.lean ====
section
/-! DEFINITION. The instruction cycle `step()` (40_step_cycle.md R120), and the host's placing of a word where the next
cycle fetches. -/

namespace Sys2Proof.Machine

/-- `step()` (R120). The record the spec's `step()` returns is the next state's `report` (assumption log 1). -/
def step (s : State) : Host.Outcome State Fault Refusal :=
  if s.canFetch then
    match decodeWord s.fetchWord with
    | .ok i => exec i s.beginCycle
    | .error _ => .next (s.raiseUnknown s.fetchWord)
  else .next s.raiseFetch

/-- `s` with the table's word `w` stored where `step` fetches its next instruction (assumption logs 20 and 21). -/
def State.withFetchWord (s : State) (nbits w : Nat) : State :=
  (s.storeWord s.fetchAddress (tableWord nbits w)).setPc (BitVec.ofNat 16 s.fetchAddress)

end Sys2Proof.Machine
end

