-- ==== Sys2Proof/Machine/Boot.lean ====
section
/-! DEFINITION. The operation `reset(Q, image)` (70_reset_and_hazards.md R310) and the host's two inputs (00_scope.md
R9): the key latch and the random bytes. -/

namespace Sys2Proof.Machine

/-- The reset contents of address `a` (10_state.md R53): the font at `Q.fontBase`, the image at 0x200, 0 elsewhere. -/
def bootByte (q : Quirks) (font : Vector Byte 80) (image : List Byte) (a : Nat) : Byte :=
  if q.fontBase ≤ a ∧ a < q.fontBase + 80 then font.toList.getD (a - q.fontBase) 0
  else if Config.progBase ≤ a then image.getD (a - Config.progBase) 0
  else 0

/-- The default `FONT` parameter of R43. -/
def defaultFont : Vector Byte 80 := ⟨fontBytes.toArray, rfl⟩

/-- `reset(Q, image)` with the parameter `FONT` (R310, R43): an illegal font base is refused, an image of more than 3584
bytes is a LoadFault and makes no machine (60_exceptions.md R271), else every field is at its reset value. -/
def State.boot (q : Quirks) (font : Vector Byte 80) (image : List Byte) : Host.Outcome State Fault Refusal :=
  if !q.legal then .refused (.illegalFontBase q.fontBase)
  else if image.length > Config.maxImage then .fault (.loadFault image.length)
  else .next { State.reset with q := q, mem := Memory.ofContents (bootByte q font image) 0 Config.memSize }

/-- The host writes the whole key vector (10_state.md R30). The spec allows it only between frames (00_scope.md R10). -/
def State.writeKeys (s : State) (keys : Vector Bool 16) : State := { s with keys := keys }

/-- The host supplies random bytes (70_reset_and_hazards.md R313), consumed in order. -/
def State.supplyRandom (s : State) (bytes : List Byte) : State := { s with rndQueue := s.rndQueue ++ bytes }

end Sys2Proof.Machine
end

