-- ==== Sys2Proof/Machine/Cadence.lean ====
section
/-! DEFINITION. The frame cadence controller `runFrame(cycleBudget)` (46_frame_cadence.md), and the host's alternation
with it (R255). -/

namespace Sys2Proof.Machine

/-- What `runFrame` leaves and returns: the state, the fault records of the frame's steps in order, and the number of
pulses of `frame_ready`, which is always one (R250, R253; assumption log 16). -/
structure FrameResult where
  state : State
  faults : List FaultRecord
  frameReady : Nat
  deriving DecidableEq, Repr

/-- A timer's decrement: by 1 if nonzero (R252). -/
def timerTick (b : Byte) : Byte := if b = 0 then 0 else b - 1

/-- The tick of both timers at the end of a frame (R252). -/
def State.tickTimers (s : State) : State := { s with dt := timerTick s.dt, st := timerTick s.st }

/-- The cycles of a frame: while budget is left and `pc <= 4094` (R250, R251), with the faults they report in order. A
step that stopped the machine would end the frame with its reason; no step does. -/
def runCycles (budget : Nat) (s : State) : Host.Outcome (State × List FaultRecord) Fault Refusal :=
  match budget with
  | 0 => .next (s, [])
  | n + 1 =>
    if s.canFetch then
      match step s with
      | .next t =>
        match runCycles n t with
        | .next (u, faults) => .next (u, t.report.toList ++ faults)
        | .fault r => .fault r
        | .refused r => .refused r
      | .fault r => .fault r
      | .refused r => .refused r
    else .next (s, [])

/-- `runFrame(cycleBudget)` (R250): the cycles, then the timer tick, then `frame_ready`. -/
def runFrame (budget : Nat) (s : State) : Host.Outcome FrameResult Fault Refusal :=
  match runCycles budget s with
  | .next (u, faults) => .next { state := u.tickTimers, faults := faults, frameReady := 1 }
  | .fault r => .fault r
  | .refused r => .refused r

/-- What the host brings to one frame (R255, R313): the key vector, the random bytes it supplies, the budget. -/
structure FrameInput where
  keys : Vector Bool 16
  random : List Byte
  budget : Nat
  deriving DecidableEq, Repr

/-- One turn of the host: write `KEYS`, then `runFrame` (R255). -/
def hostFrame (inp : FrameInput) (s : State) : Host.Outcome FrameResult Fault Refusal :=
  runFrame inp.budget ((s.writeKeys inp.keys).supplyRandom inp.random)

/-- The life of an instance after reset: one frame after another (R255), with the results the host sees. -/
def session (inputs : List FrameInput) (s : State) : Host.Outcome (State × List FrameResult) Fault Refusal :=
  match inputs with
  | [] => .next (s, [])
  | inp :: rest =>
    match hostFrame inp s with
    | .next r =>
      match session rest r.state with
      | .next (u, rs) => .next (u, r :: rs)
      | .fault e => .fault e
      | .refused e => .refused e
    | .fault e => .fault e
    | .refused e => .refused e

end Sys2Proof.Machine
end

