-- ==== Sys2Proof/Safety.lean ====
section
/-! DEFINITION. The terms claims are stated in: the invariant of legal states, a cycle without a fault, the blocked and
the halted state, the parts of a state and what
an instruction may change, the table of which instruction raises which fault. -/

namespace Sys2Proof.Machine

/-! ## Legal states -/

/-- The invariant: memory is in canonical form, `Q` is legal (00_scope.md R7), PC is at most 0x10FE (10_state.md R24,
R33) and no stack entry is above 4096 (R24: "CALL pushes at most 4096"). `0 <= SP <= 12` (R26) is the type of `sp`. -/
def State.Inv (s : State) : Prop :=
  s.mem.wf = true ∧ s.q.legal = true ∧ s.pc.toNat ≤ 0x10FE ∧ ∀ k : Fin 12, (s.stack.get k).toNat ≤ 4096

/-! ## Safe runs -/

/-- A cycle that reports no fault: outcome (1) of 40_step_cycle.md R126. -/
def CleanStep (s t : State) : Prop := step s = .next t ∧ t.report = none

/-- The machine is halted at its PC until reset (R121): no instruction can be fetched. -/
def State.halted (s : State) : Prop := 4094 < s.pc.toNat

/-- "Blocked" (10_state.md R34): the word at PC decodes to `LD Vx, K` and no key is down. -/
def State.blocked (s : State) : Prop :=
  s.pc.toNat ≤ 4094 ∧ (∃ x, decodeWord s.fetchWord = .ok (.ldVxK x)) ∧ ∀ k, s.key k = false

/-- Instruction `i` completes from `s` in a next state of which `P` holds. -/
def Completes (i : Instr) (s : State) (P : State → Prop) : Prop := ∃ t, exec i s = .next t ∧ P t

/-! ## Parts of a state -/

/-- The smallest parts of a state that a rule names. -/
inductive Part where
  | reg (r : RegIdx)
  | index
  | pc
  | depth
  | slot (k : Fin 12)
  | pixel (r c : Nat)
  | delay
  | sound
  | key (k : Fin 16)
  | quirks
  | byte (a : Nat)
  /-- The `rnd` input: the supplied bytes and the count of bytes consumed. -/
  | random
  /-- The `fault` output. -/
  | report
  deriving DecidableEq, Repr

/-- The part is the same in both states. -/
def Part.same (s t : State) (p : Part) : Prop :=
  match p with
  | .reg r => t.readV r = s.readV r
  | .index => t.i = s.i
  | .pc => t.pc = s.pc
  | .depth => t.sp = s.sp
  | .slot k => t.stack.get k = s.stack.get k
  | .pixel r c => t.pixel r c = s.pixel r c
  | .delay => t.dt = s.dt
  | .sound => t.st = s.st
  | .key k => t.key k = s.key k
  | .quirks => t.q = s.q
  | .byte a => t.readByte a = s.readByte a
  | .random => t.rndQueue = s.rndQueue ∧ t.rndDrawn = s.rndDrawn
  | .report => t.report = s.report

/-- From `s` to `t` nothing changes but parts in `W`. -/
def ChangesOnly (s t : State) (W : Part → Prop) : Prop := ∀ p, ¬ W p → p.same s t

/-- Registers `V[0]` to `V[n-1]`. -/
def Part.isRegBelow (n : Nat) (p : Part) : Prop := ∃ r, p = .reg r ∧ r.val < n

/-- One of the `n` bytes from `base`. -/
def Part.isByteIn (base n : Nat) (p : Part) : Prop := ∃ a, p = .byte a ∧ base ≤ a ∧ a < base + n

/-- A pixel of the framebuffer. -/
def Part.isPixel (p : Part) : Prop := ∃ r c, p = .pixel r c

/-! ## Sprites, pixel by pixel (44_display.md R211, R212) -/

/-- The sprite of `n` rows at `base`, placed with its origin at column `x` and row `y`, has a 1 bit on the pixel of row
`r` and column `c` of the grid. A pixel outside the grid is clipped. -/
def spriteCovers (mem : Memory) (base x y n r c : Nat) : Prop :=
  r ≤ 31 ∧ c ≤ 63 ∧ y ≤ r ∧ r < y + n ∧ x ≤ c ∧ c < x + 8 ∧ (mem.read (base + (r - y))).getLsbD (7 - (c - x)) = true

/-! ## What an instruction may change -/

/-- The parts each instruction may change when it executes, beside the PC advance already made: the rules of 10_state.md
on who writes which state (R20 to R31), instruction by instruction. The `fault` output changes only where the
instruction can fault (60_exceptions.md R279). -/
def footprint (i : Instr) (s : State) (p : Part) : Prop :=
  match i with
  | .cls => p.isPixel
  | .ret => p = .pc ∨ p = .depth ∨ p = .report
  | .call _ => p = .pc ∨ p = .depth ∨ (∃ k, p = .slot k ∧ k.val = s.sp.val) ∨ p = .report
  | .jp _ | .jpV0 _ _ | .seImm _ _ | .sneImm _ _ | .seReg _ _ | .sneReg _ _ | .skp _ | .sknp _ => p = .pc
  | .ldImm x _ | .addImm x _ | .ldReg x _ | .ldVxDt x => p = .reg x
  | .or x _ | .and x _ | .xor x _ => p = .reg x ∨ (s.q.resetFlagOnLogicOps = true ∧ p = .reg vf)
  | .addReg x _ | .sub x _ | .subn x _ | .shr x _ | .shl x _ => p = .reg x ∨ p = .reg vf
  | .rnd x _ => p = .reg x ∨ p = .random
  | .ldI _ | .addI _ | .ldF _ => p = .index
  | .drw _ _ _ => p.isPixel ∨ p = .reg vf ∨ p = .report
  | .ldVxK x => p = .reg x ∨ p = .pc
  | .ldDtVx _ => p = .delay
  | .ldStVx _ => p = .sound
  | .ldB _ => p.isByteIn s.i.toNat 3 ∨ p = .report
  | .ldMemVx x =>
    p.isByteIn s.i.toNat (x.val + 1) ∨ (s.q.incrementIndexOnBulkTransfer = true ∧ p = .index) ∨ p = .report
  | .ldVxMem x =>
    p.isRegBelow (x.val + 1) ∨ (s.q.incrementIndexOnBulkTransfer = true ∧ p = .index) ∨ p = .report

/-- The effect of OR, AND and XOR with result `v` for register `x` (42_alu.md R164 to R166): the flag is reset after the
result, under `Q.resetFlagOnLogicOps` alone (D7, assumption log 8). -/
def LogicEffect (s t : State) (x : RegIdx) (v : Byte) : Prop :=
  (s.q.resetFlagOnLogicOps = false → t.readV x = v ∧ ChangesOnly s t (· = .reg x)) ∧
  (s.q.resetFlagOnLogicOps = true → t.readV vf = 0 ∧ (x ≠ vf → t.readV x = v) ∧
    ChangesOnly s t (fun p => p = .reg x ∨ p = .reg vf))

/-- Instruction `i` has raised AddressFault of kind execute and done nothing else (R272, R275). -/
def AddressFaulted (i : Instr) (s t : State) : Prop :=
  t.report = some { code := .addressFault, kind := .execute, pc := s.pc - 2, op := some (encode i),
                    info := some (max s.i.toNat 4096) } ∧
  ChangesOnly s t (· = .report)

/-! ## Which cycle raises what (60_exceptions.md R277, R279) -/

/-- The fault the cycle from `s` raises: the table of R279, in the order of R277. -/
def faultDue (s : State) : Option (FaultCode × FaultKind) :=
  if 4094 < s.pc.toNat then some (.addressFault, .fetch)
  else
    match decodeWord s.fetchWord with
    | .error _ => some (.unknownOpcodeFault, .none)
    | .ok .ret => if s.sp.val = 0 then some (.stackFault, .underflow) else none
    | .ok (.call _) => if s.sp.val = 12 then some (.stackFault, .overflow) else none
    | .ok (.ldB _) => if 4093 < s.i.toNat then some (.addressFault, .execute) else none
    | .ok (.ldMemVx x) => if 4095 < s.i.toNat + x.val then some (.addressFault, .execute) else none
    | .ok (.ldVxMem x) => if 4095 < s.i.toNat + x.val then some (.addressFault, .execute) else none
    | .ok (.drw _ _ n) =>
      if 1 ≤ n.toNat ∧ 4096 < s.i.toNat + n.toNat then some (.addressFault, .execute) else none
    | .ok _ => none

/-! ## Runs -/

/-- `k` calls of `step()` one after another. -/
def stepsFrom (k : Nat) (s : State) : Host.Outcome State Fault Refusal := Host.Core.run Sys2Proof.core k s

/-- The record reported by the last of `k` calls of `step()`, if any. -/
def reportAfter (k : Nat) (s : State) : Option FaultRecord :=
  match stepsFrom k s with
  | .next t => t.report
  | .fault _ => none
  | .refused _ => none

end Sys2Proof.Machine
end

