-- ==== Sys2Proof/Certificates/Slice0/Obligations.lean ====
section
/-! DEFINITION. The statements for the provers. Each docstring names the rule of spec/ it formalises, or the decision
of spec/92_eei_decisions.md (with the assumption log's entry) that it rests on. -/

open Sys2Proof Sys2Proof.Machine

/-! ## Encoding and decoding (30_encoding.md) -/

/-- Decoding the encoding of a well-formed instruction gives it back, for every operand value. The patterns are the
model's reading of the standard layout (assumption log 5). -/
def Obligations.EncodeThenDecodeGivesInstructionBack : Prop :=
  ∀ i : Instr, i.wf = true → decodeWord (encode i) = .ok i

/-- Every word that decodes decodes to a well-formed instruction whose encoding is that word: no bit is dropped. -/
def Obligations.DecodeThenEncodeGivesWordBack : Prop :=
  ∀ (w : Word) (i : Instr), decodeWord w = .ok i → i.wf = true ∧ encode i = w

/-- R96: a word is the instruction of a row exactly when `op & mask = match` of that row. -/
def Obligations.DecoderAgreesWithMatchAndMask : Prop :=
  ∀ (w : Word), ∀ r ∈ opcodeRows, (w &&& r.2.2 = r.2.1 ↔ ∃ i, decodeWord w = .ok i ∧ rowNumber i = r.1)

/-- R100: the words that decode to UNKNOWN are those of its table (strict decoding: D3, assumption log 7). -/
def Obligations.UnknownWordsAreThoseListed : Prop :=
  ∀ w : Word,
    let c := w.toNat / 4096
    let n := w.toNat % 16
    let nn := w.toNat % 256
    decodeWord w = .error (.unknown w) ↔
      (c = 0 ∧ w.toNat ≠ 0x00E0 ∧ w.toNat ≠ 0x00EE) ∨ (c = 5 ∧ n ≠ 0) ∨ (c = 8 ∧ 8 ≤ n ∧ n ≠ 0xE) ∨ (c = 9 ∧ n ≠ 0) ∨
      (c = 0xE ∧ nn ≠ 0x9E ∧ nn ≠ 0xA1) ∨
      (c = 0xF ∧ nn ≠ 0x07 ∧ nn ≠ 0x0A ∧ nn ≠ 0x15 ∧ nn ≠ 0x18 ∧ nn ≠ 0x1E ∧ nn ≠ 0x29 ∧ nn ≠ 0x33 ∧ nn ≠ 0x55 ∧
        nn ≠ 0x65)

/-- A few words written out from the spec's worked examples decode to the instructions they stand for, and one is
UNKNOWN. -/
def Obligations.SampleWordsDecode : Prop :=
  decodeWord 0x1234 = .ok (.jp 0x234) ∧ decodeWord 0x332A = .ok (.seImm 3 0x2A) ∧
  decodeWord 0x8126 = .ok (.shr 1 2) ∧ decodeWord 0xB300 = .ok (.jpV0 3 0x300) ∧
  decodeWord 0xD012 = .ok (.drw 0 1 2) ∧ decodeWord 0xE29E = .ok (.skp 2) ∧ decodeWord 0xF533 = .ok (.ldB 5) ∧
  decodeWord 0x5121 = .error (.unknown 0x5121)

/-- A word placed where the next cycle fetches is the word fetched there, and nothing but its two bytes changes
(R63, big-endian: D1, assumption log 6). -/
def Obligations.PlacedWordIsFetched : Prop :=
  ∀ (s : State) (w : Word), s.mem.wf = true → s.pc.toNat ≤ 4094 →
    (s.withFetchWord 16 w.toNat).fetchWord = w ∧
    ChangesOnly s (s.withFetchWord 16 w.toNat) (fun p => p.isByteIn s.pc.toNat 2)

/-! ## The instruction cycle (40_step_cycle.md) -/

/-- R120, R122: when the two bytes at PC decode to an instruction, a step is that instruction executed in the state whose
PC is advanced by 2 and whose fault output is cleared (the clearing and the byte order are the model's, logs 1 and 6). -/
def Obligations.StepRunsDecodedInstruction : Prop :=
  ∀ (s : State) (i : Instr), s.pc.toNat ≤ 4094 →
    decodeWord (s.readByte s.pc.toNat ++ s.readByte (s.pc.toNat + 1)) = .ok i →
    step s = exec i { s with pc := s.pc + 2, report := none }

/-- R125: a word that is no instruction reports UnknownOpcodeFault with its address and the word; PC is advanced by 2 and
nothing else changes. -/
def Obligations.UnknownWordReportsAndAdvances : Prop :=
  ∀ s : State, s.pc.toNat ≤ 4094 → (∀ i, decodeWord s.fetchWord ≠ .ok i) →
    ∃ t, step s = .next t ∧ t.pc.toNat = s.pc.toNat + 2 ∧ ChangesOnly s t (fun p => p = .pc ∨ p = .report) ∧
      t.report = some { code := .unknownOpcodeFault, kind := .none, pc := s.pc, op := some s.fetchWord, info := none }

/-- R121: a fetch at a PC above 4094 reports AddressFault of kind fetch with the first address out of range, and changes
nothing, PC included (D16, assumption log 10). -/
def Obligations.FetchBeyondMemoryChangesNothing : Prop :=
  ∀ s : State, 4094 < s.pc.toNat →
    ∃ t, step s = .next t ∧ ChangesOnly s t (· = .report) ∧
      t.report = some { code := .addressFault, kind := .fetch, pc := s.pc, op := none,
                        info := some (if s.pc.toNat = 4095 then 4096 else s.pc.toNat) }

/-- R126, R276: from every state a step has a next state, and it is one of three: no fault reported; a fault reported
with the state changed only by the PC advance; a fetch fault with the state unchanged. -/
def Obligations.EveryStepHasOneOfThreeOutcomes : Prop :=
  ∀ s : State, ∃ t, step s = .next t ∧
    (t.report = none ∨
     (∃ r, r.kind ≠ .fetch ∧ t = { s with pc := s.pc + 2, report := some r }) ∨
     (∃ r, r.kind = .fetch ∧ t = { s with report := some r }))

/-- R277, R279: a step reports a fault exactly where the table says, with that code and kind, and no other. -/
def Obligations.FaultsAreExactlyThoseOfTheTable : Prop :=
  ∀ s : State, ∃ t, step s = .next t ∧ (t.report.map fun r => (r.code, r.kind)) = faultDue s

/-- R275: the record names the instruction: its address, its word (absent for a fetch), and the address, target or nothing
that R275 asks for (the fields are D21's, assumption log 15). -/
def Obligations.FaultRecordNamesTheInstruction : Prop :=
  ∀ (s t : State) (r : FaultRecord), step s = .next t → t.report = some r →
    r.pc = s.pc ∧ (r.kind = .fetch → r.op = none) ∧ (r.kind ≠ .fetch → r.op = some s.fetchWord) ∧
    (r.kind = .fetch → r.info = some (max s.pc.toNat 4096)) ∧
    (r.kind = .execute → r.info = some (max s.i.toNat 4096)) ∧
    (r.kind = .overflow → r.info = some (s.fetchWord.toNat % 4096)) ∧
    (r.kind = .underflow ∨ r.kind = .none → r.info = none)

/-- R121: "Every later `step()` does the same, so the machine is halted at that PC until reset". -/
def Obligations.HaltedMachineStaysHalted : Prop :=
  ∀ (k : Nat) (s : State), s.halted →
    ∃ t, stepsFrom (k + 1) s = .next t ∧ ChangesOnly s t (· = .report) ∧
      (t.report.map fun r => (r.code, r.kind)) = some (.addressFault, .fetch)

/-- R233, R34: with no key down, any number of steps at a `LD Vx, K` leaves PC and everything else unchanged, and reports
nothing. -/
def Obligations.BlockedMachineWaitsInPlace : Prop :=
  ∀ (k : Nat) (s : State), s.blocked →
    ∃ t, stepsFrom (k + 1) s = .next t ∧ ChangesOnly s t (· = .report) ∧ t.report = none

/-! ## Control transfers (41_control_flow.md) -/

/-- R142: `pc <- NNN`, zero-extended; nothing else changes. -/
def Obligations.JumpSetsPc : Prop :=
  ∀ (nnn : BitVec 12) (s : State),
    Completes (.jp nnn) s fun t => t.pc.toNat = nnn.toNat ∧ ChangesOnly s t (· = .pc)

/-- R147: `pc <- V[0] + NNN`, or `V[X] + NNN` under the option (D8, assumption log 9), neither wrapped nor masked. -/
def Obligations.JumpWithOffsetAddsRegister : Prop :=
  ∀ (x : RegIdx) (nnn : BitVec 12) (s : State),
    Completes (.jpV0 x nnn) s fun t =>
      t.pc.toNat = (s.readV (if s.q.jumpOffsetUsesVx then x else 0)).toNat + nnn.toNat ∧ t.pc.toNat ≤ 0x10FE ∧
      ChangesOnly s t (· = .pc)

/-- R145, R146, R148, R149: the four comparing skips add 2 to the advanced PC exactly when their condition holds, and
change nothing else. -/
def Obligations.ComparingSkipsAdvanceOnCondition : Prop :=
  ∀ (x y : RegIdx) (nn : Byte) (s : State),
    (Completes (.seImm x nn) s fun t =>
      t.pc = (if (s.readV x).toNat = nn.toNat then s.pc + 2 else s.pc) ∧ ChangesOnly s t (· = .pc)) ∧
    (Completes (.sneImm x nn) s fun t =>
      t.pc = (if (s.readV x).toNat = nn.toNat then s.pc else s.pc + 2) ∧ ChangesOnly s t (· = .pc)) ∧
    (Completes (.seReg x y) s fun t =>
      t.pc = (if (s.readV x).toNat = (s.readV y).toNat then s.pc + 2 else s.pc) ∧ ChangesOnly s t (· = .pc)) ∧
    (Completes (.sneReg x y) s fun t =>
      t.pc = (if (s.readV x).toNat = (s.readV y).toNat then s.pc else s.pc + 2) ∧ ChangesOnly s t (· = .pc))

/-- R143: RET pops the last return address into PC, the slots keeping their values; on an empty stack it reports
StackFault of kind underflow, and PC (at the advanced PC) and SP stay. -/
def Obligations.ReturnPopsOrUnderflows : Prop :=
  ∀ s : State, Completes .ret s fun t =>
    (0 < s.sp.val → t.sp.val + 1 = s.sp.val ∧ (∀ k : Fin 12, k.val = t.sp.val → t.pc = s.stack.get k) ∧
      ChangesOnly s t (fun p => p = .pc ∨ p = .depth)) ∧
    (s.sp.val = 0 → (∃ r, t.report = some r ∧ r.code = .stackFault ∧ r.kind = .underflow) ∧
      ChangesOnly s t (· = .report))

/-- R144: CALL pushes the advanced PC and jumps; on a full stack it reports StackFault of kind overflow and neither
pushes nor jumps (D18, assumption log 13; the record's fields D21, log 15). -/
def Obligations.CallPushesAndJumpsOrOverflows : Prop :=
  ∀ (nnn : BitVec 12) (s : State), Completes (.call nnn) s fun t =>
    (s.sp.val < 12 → t.pc.toNat = nnn.toNat ∧ t.sp.val = s.sp.val + 1 ∧
      (∀ k : Fin 12, k.val = s.sp.val → t.stack.get k = s.pc) ∧
      ChangesOnly s t (fun p => p = .pc ∨ p = .depth ∨ ∃ k, p = .slot k ∧ k.val = s.sp.val)) ∧
    (s.sp.val = 12 → ChangesOnly s t (· = .report) ∧
      t.report = some { code := .stackFault, kind := .overflow, pc := s.pc - 2, op := some (encode (.call nnn)),
                        info := some nnn.toNat })

/-- T6 of 95_test_vectors.md: a RET that finds the stack as a CALL left it restores PC to the address after the CALL, and
the stack's depth and live entries to what they were. -/
def Obligations.CallThenReturnRestoresPc : Prop :=
  ∀ (nnn : BitVec 12) (s : State), s.sp.val < 12 →
    Completes (.call nnn) s fun t => ∀ u : State, u.sp = t.sp → u.stack = t.stack →
      Completes .ret u fun v => v.pc = s.pc ∧ v.sp = s.sp ∧
        ∀ k : Fin 12, k.val < s.sp.val → v.stack.get k = s.stack.get k

/-! ## Arithmetic and logic (42_alu.md) -/

/-- R161, R163: set register and register transfer write their value to `V[X]` and change nothing else, VF included
whatever `Q` says. -/
def Obligations.LoadAndTransferWriteOneRegister : Prop :=
  ∀ (x y : RegIdx) (nn : Byte) (s : State),
    (Completes (.ldImm x nn) s fun t => t.readV x = nn ∧ ChangesOnly s t (· = .reg x)) ∧
    (Completes (.ldReg x y) s fun t => t.readV x = s.readV y ∧ ChangesOnly s t (· = .reg x))

/-- R162: `V[X] <- (V[X] + NN) & 0xFF`, and nothing else changes: VF is not written. -/
def Obligations.AddImmediateWraps : Prop :=
  ∀ (x : RegIdx) (nn : Byte) (s : State),
    Completes (.addImm x nn) s fun t =>
      (t.readV x).toNat = ((s.readV x).toNat + nn.toNat) % 256 ∧ ChangesOnly s t (· = .reg x)

/-- R164 to R166: OR, AND and XOR, with the VF reset after the result under the option (D7, assumption log 8). -/
def Obligations.LogicOperationsAndFlagReset : Prop :=
  ∀ (x y : RegIdx) (s : State),
    (Completes (.or x y) s fun t => LogicEffect s t x (s.readV x ||| s.readV y)) ∧
    (Completes (.and x y) s fun t => LogicEffect s t x (s.readV x &&& s.readV y)) ∧
    (Completes (.xor x y) s fun t => LogicEffect s t x (s.readV x ^^^ s.readV y))

/-- R167: VF ends as the carry out, whatever X and Y are; `V[X]`, when it is not VF, as the sum modulo 256. -/
def Obligations.AddWritesSumThenCarry : Prop :=
  ∀ (x y : RegIdx) (s : State),
    let sum := (s.readV x).toNat + (s.readV y).toNat
    Completes (.addReg x y) s fun t =>
      (t.readV vf).toNat = (if sum > 255 then 1 else 0) ∧ (x ≠ vf → (t.readV x).toNat = sum % 256) ∧
      ChangesOnly s t (fun p => p = .reg x ∨ p = .reg vf)

/-- R168 with its VF-operand cases (statement order: D4, assumption log 8): `f` is the no-borrow flag of X - Y. -/
def Obligations.SubtractWritesFlagThenDifference : Prop :=
  ∀ (x y : RegIdx) (s : State),
    let a := (s.readV x).toNat
    let b := (s.readV y).toNat
    let f := if a ≥ b then 1 else 0
    Completes (.sub x y) s fun t =>
      (x ≠ vf → (t.readV vf).toNat = f) ∧
      (x ≠ vf → y ≠ vf → (t.readV x).toNat = (a + 256 - b) % 256) ∧
      (x = vf → y ≠ vf → (t.readV vf).toNat = (f + 256 - b) % 256) ∧
      (x ≠ vf → y = vf → (t.readV x).toNat = (a + 256 - f) % 256) ∧
      (x = vf → y = vf → (t.readV vf).toNat = 0) ∧
      ChangesOnly s t (fun p => p = .reg x ∨ p = .reg vf)

/-- R169 with its VF-operand cases (D4, assumption log 8): `f` is the no-borrow flag of Y - X. -/
def Obligations.ReverseSubtractWritesFlagThenDifference : Prop :=
  ∀ (x y : RegIdx) (s : State),
    let a := (s.readV x).toNat
    let b := (s.readV y).toNat
    let f := if b ≥ a then 1 else 0
    Completes (.subn x y) s fun t =>
      (x ≠ vf → (t.readV vf).toNat = f) ∧
      (x ≠ vf → y ≠ vf → (t.readV x).toNat = (b + 256 - a) % 256) ∧
      (x = vf → y ≠ vf → (t.readV vf).toNat = (b + 256 - f) % 256) ∧
      (x ≠ vf → y = vf → (t.readV x).toNat = (f + 256 - a) % 256) ∧
      (x = vf → y = vf → (t.readV vf).toNat = 0) ∧
      ChangesOnly s t (fun p => p = .reg x ∨ p = .reg vf)

/-- R170: the value shifted is `V[Y]` under `Q.shiftUsesY` and else `V[X]` (D6, log 9); VF is the bit shifted out; with
X = 15 the final VF is 0 (D4, log 8). -/
def Obligations.ShiftRightHalvesSource : Prop :=
  ∀ (x y : RegIdx) (s : State),
    let v := (s.readV (if s.q.shiftUsesY then y else x)).toNat
    Completes (.shr x y) s fun t =>
      (x ≠ vf → (t.readV x).toNat = v / 2 ∧ (t.readV vf).toNat = v % 2) ∧ (x = vf → (t.readV vf).toNat = 0) ∧
      ChangesOnly s t (fun p => p = .reg x ∨ p = .reg vf)

/-- R171: as R170 to the left; with X = 15 the final VF is 0 or 2 (D4, D6; logs 8 and 9). -/
def Obligations.ShiftLeftDoublesSource : Prop :=
  ∀ (x y : RegIdx) (s : State),
    let v := (s.readV (if s.q.shiftUsesY then y else x)).toNat
    Completes (.shl x y) s fun t =>
      (x ≠ vf → (t.readV x).toNat = v * 2 % 256 ∧ (t.readV vf).toNat = v / 128) ∧
      (x = vf → (t.readV vf).toNat = v / 128 * 2) ∧ ChangesOnly s t (fun p => p = .reg x ∨ p = .reg vf)

/-- R172: `V[X] <- rnd() & NN` for some byte, the next one the host has supplied where there is one; each execution
consumes exactly one (the queue and the counter are the model's, assumption log 2). -/
def Obligations.RandomizeMasksOneFreshByte : Prop :=
  ∀ (x : RegIdx) (nn : Byte) (s : State),
    Completes (.rnd x nn) s fun t =>
      (∃ b, t.readV x = b &&& nn ∧ (s.rndQueue = b :: t.rndQueue ∨ (s.rndQueue = [] ∧ t.rndQueue = []))) ∧
      t.rndDrawn = s.rndDrawn + 1 ∧ ChangesOnly s t (fun p => p = .reg x ∨ p = .random)

/-! ## Index register and memory (43_index_memory.md) -/

/-- R190, R191: set index, and add to index modulo 2^16 with no flag. -/
def Obligations.IndexLoadAndAdd : Prop :=
  ∀ (nnn : BitVec 12) (x : RegIdx) (s : State),
    (Completes (.ldI nnn) s fun t => t.i.toNat = nnn.toNat ∧ ChangesOnly s t (· = .index)) ∧
    (Completes (.addI x) s fun t =>
      t.i.toNat = (s.i.toNat + (s.readV x).toNat) % 65536 ∧ ChangesOnly s t (· = .index))

/-- R192: `I <- (V[X] & 0xF) * 5 + Q.fontBase`; at most 0x1FB for a legal font base. -/
def Obligations.FontAddressOfLowNibble : Prop :=
  ∀ (x : RegIdx) (s : State), s.q.legal = true →
    Completes (.ldF x) s fun t =>
      t.i.toNat = (s.readV x).toNat % 16 * 5 + s.q.fontBase ∧ t.i.toNat ≤ 0x1FB ∧ ChangesOnly s t (· = .index)

/-- R193: the three digits at I, I + 1, I + 2, nothing else changed; AddressFault and nothing changed when I > 4093
(D12, assumption log 12; the record's fields D21, log 15). -/
def Obligations.BcdStoreWritesThreeDigits : Prop :=
  ∀ (x : RegIdx) (s : State), s.mem.wf = true → Completes (.ldB x) s fun t =>
    (s.i.toNat ≤ 4093 →
      (t.readByte s.i.toNat).toNat = (s.readV x).toNat / 100 ∧
      (t.readByte (s.i.toNat + 1)).toNat = (s.readV x).toNat / 10 % 10 ∧
      (t.readByte (s.i.toNat + 2)).toNat = (s.readV x).toNat % 10 ∧ ChangesOnly s t (fun p => p.isByteIn s.i.toNat 3)) ∧
    (4093 < s.i.toNat → AddressFaulted (.ldB x) s t)

/-- R194: `V[0..=X]` copied to memory at I, I advanced by X + 1 under the option, nothing else changed; AddressFault and
nothing changed when I + X > 4095 (D9, D12; logs 9 and 12). -/
def Obligations.RegisterDumpCopiesToMemory : Prop :=
  ∀ (x : RegIdx) (s : State), s.mem.wf = true → Completes (.ldMemVx x) s fun t =>
    (s.i.toNat + x.val ≤ 4095 →
      (∀ k : RegIdx, k ≤ x → t.readByte (s.i.toNat + k.val) = s.readV k) ∧
      t.i.toNat = (if s.q.incrementIndexOnBulkTransfer then s.i.toNat + x.val + 1 else s.i.toNat) ∧
      ChangesOnly s t (fun p => p.isByteIn s.i.toNat (x.val + 1) ∨ p = .index)) ∧
    (4095 < s.i.toNat + x.val → AddressFaulted (.ldMemVx x) s t)

/-- R195: memory at I copied to `V[0..=X]`, I advanced by X + 1 under the option, nothing else changed; AddressFault and
nothing changed when I + X > 4095 (D9, D12; logs 9 and 12). -/
def Obligations.RegisterLoadCopiesFromMemory : Prop :=
  ∀ (x : RegIdx) (s : State), Completes (.ldVxMem x) s fun t =>
    (s.i.toNat + x.val ≤ 4095 →
      (∀ k : RegIdx, k ≤ x → t.readV k = s.readByte (s.i.toNat + k.val)) ∧
      t.i.toNat = (if s.q.incrementIndexOnBulkTransfer then s.i.toNat + x.val + 1 else s.i.toNat) ∧
      ChangesOnly s t (fun p => p.isRegBelow (x.val + 1) ∨ p = .index)) ∧
    (4095 < s.i.toNat + x.val → AddressFaulted (.ldVxMem x) s t)

/-- R75: a dump over the bytes at the advanced PC changes the word the next cycle fetches. -/
def Obligations.DumpOverNextInstructionIsFetched : Prop :=
  ∀ (x : RegIdx) (s : State), s.mem.wf = true → s.i = s.pc → 1 ≤ x.val → s.i.toNat + x.val ≤ 4095 →
    Completes (.ldMemVx x) s fun t => t.fetchWord = s.readV 0 ++ s.readV 1

/-! ## Display (44_display.md) -/

/-- R210: every pixel is off, and nothing else changes. -/
def Obligations.ClearScreenTurnsEveryPixelOff : Prop :=
  ∀ s : State, Completes .cls s fun t => (∀ r c, t.pixel r c = false) ∧ ChangesOnly s t Part.isPixel

/-- R211, R212: a sprite inverts exactly the pixels under its 1 bits, those outside the grid clipped; the origin is
`(V[X] mod 64, V[Y] mod 32)` of the registers as they were (D15, assumption log 8). Nothing else changes but VF. -/
def Obligations.DrawInvertsCoveredPixels : Prop :=
  ∀ (x y : RegIdx) (n : BitVec 4) (s : State), n.toNat = 0 ∨ s.i.toNat + n.toNat ≤ 4096 →
    Completes (.drw x y n) s fun t =>
      (∀ r c, t.pixel r c = true ↔
        ¬ (s.pixel r c = true ↔
          spriteCovers s.mem s.i.toNat ((s.readV x).toNat % 64) ((s.readV y).toNat % 32) n.toNat r c)) ∧
      ChangesOnly s t (fun p => p.isPixel ∨ p = .reg vf)

/-- R213: after DRW, VF is 1 exactly when an unclipped 1 bit of the sprite met a pixel that was on, and 0 otherwise. -/
def Obligations.DrawFlagReportsCollision : Prop :=
  ∀ (x y : RegIdx) (n : BitVec 4) (s : State), n.toNat = 0 ∨ s.i.toNat + n.toNat ≤ 4096 →
    Completes (.drw x y n) s fun t =>
      (t.readV vf = 1 ∨ t.readV vf = 0) ∧
      (t.readV vf = 1 ↔ ∃ r c, s.pixel r c = true ∧
        spriteCovers s.mem s.i.toNat ((s.readV x).toNat % 64) ((s.readV y).toNat % 32) n.toNat r c)

/-- R215: a DRW whose N bytes do not all exist reports AddressFault, clipped rows counting too, and leaves VF and the
framebuffer as they were (D12, D14; assumption log 12). -/
def Obligations.DrawOutOfRangeFaults : Prop :=
  ∀ (x y : RegIdx) (n : BitVec 4) (s : State), 1 ≤ n.toNat → 4096 < s.i.toNat + n.toNat →
    Completes (.drw x y n) s fun t => AddressFaulted (.drw x y n) s t

/-- R214: the same DRW twice restores the framebuffer, where neither X nor Y is 15; on an empty framebuffer the first
leaves VF = 0 and the second VF = 1 exactly when the sprite covers a pixel. -/
def Obligations.DrawTwiceRestoresFramebuffer : Prop :=
  ∀ (x y : RegIdx) (n : BitVec 4) (s : State), x ≠ vf → y ≠ vf → n.toNat = 0 ∨ s.i.toNat + n.toNat ≤ 4096 →
    Completes (.drw x y n) s fun t => Completes (.drw x y n) t fun u =>
      (∀ r c, u.pixel r c = s.pixel r c) ∧
      ((∀ r c, s.pixel r c = false) → t.readV vf = 0 ∧ (u.readV vf = 1 ↔ ∃ r c,
        spriteCovers s.mem s.i.toNat ((s.readV x).toNat % 64) ((s.readV y).toNat % 32) n.toNat r c))

/-! ## Keypad and timers (45_keypad_timers.md) -/

/-- R230, R231: the key skips test the key of the low nibble of `V[X]` and change nothing but PC. -/
def Obligations.KeySkipsTestLowNibble : Prop :=
  ∀ (x : RegIdx) (k : Fin 16) (s : State), k.val = (s.readV x).toNat % 16 →
    (Completes (.skp x) s fun t =>
      t.pc = (if s.key k = true then s.pc + 2 else s.pc) ∧ ChangesOnly s t (· = .pc)) ∧
    (Completes (.sknp x) s fun t =>
      t.pc = (if s.key k = true then s.pc else s.pc + 2) ∧ ChangesOnly s t (· = .pc))

/-- R233: with no key down PC goes back by 2 and nothing else changes; else the smallest index down is stored (D19,
assumption log 14) and PC stays advanced. -/
def Obligations.WaitForKeyStoresSmallestOrGoesBack : Prop :=
  ∀ (x : RegIdx) (s : State), Completes (.ldVxK x) s fun t =>
    ((∀ k, s.key k = false) → t.pc = s.pc - 2 ∧ ChangesOnly s t (· = .pc)) ∧
    (∀ k, s.key k = true → (∀ j, j < k → s.key j = false) →
      (t.readV x).toNat = k.val ∧ ChangesOnly s t (· = .reg x))

/-- R234, R235, R236: the three timer transfers copy the whole byte and change nothing else. -/
def Obligations.TimerTransfersCopyTheByte : Prop :=
  ∀ (x : RegIdx) (s : State),
    (Completes (.ldVxDt x) s fun t => t.readV x = s.dt ∧ ChangesOnly s t (· = .reg x)) ∧
    (Completes (.ldDtVx x) s fun t => t.dt = s.readV x ∧ ChangesOnly s t (· = .delay)) ∧
    (Completes (.ldStVx x) s fun t => t.st = s.readV x ∧ ChangesOnly s t (· = .sound))

/-! ## Frames (46_frame_cadence.md) -/

/-- R250, R251, R252, R253: a frame is some number k of steps, at most the budget and fewer only when PC has left memory,
each begun with `pc <= 4094`; then both timers lose 1 if nonzero and nothing else changes; the faults are those the
steps reported, in order; `frame_ready` is pulsed once. -/
def Obligations.FrameIsStepsThenOneTick : Prop :=
  ∀ (n : Nat) (s : State), ∃ k u r, k ≤ n ∧ stepsFrom k s = .next u ∧ runFrame n s = .next r ∧
    (k < n → 4094 < u.pc.toNat) ∧ (∀ j v, j < k → stepsFrom j s = .next v → v.pc.toNat ≤ 4094) ∧
    r.state.dt.toNat = u.dt.toNat - 1 ∧ r.state.st.toNat = u.st.toNat - 1 ∧
    ChangesOnly u r.state (fun p => p = .delay ∨ p = .sound) ∧
    r.faults = (List.range k).filterMap (fun j => reportAfter (j + 1) s) ∧ r.frameReady = 1

/-- R252's property: in a frame in which no instruction writes DT, the delay timer is decremented by exactly 1 if
nonzero, whatever the budget. -/
def Obligations.FrameDecrementsDelayTimerOnce : Prop :=
  ∀ (n : Nat) (s : State) (r : FrameResult), runFrame n s = .next r →
    (∀ k v x, k < n → stepsFrom k s = .next v → v.pc.toNat ≤ 4094 → decodeWord v.fetchWord ≠ .ok (.ldDtVx x)) →
    r.state.dt.toNat = s.dt.toNat - 1

/-- R251: once PC has left memory a frame of any budget runs no cycle, reports no fault and only ticks the timers. -/
def Obligations.FrameBeyondMemoryOnlyTicks : Prop :=
  ∀ (n : Nat) (s : State), 4094 < s.pc.toNat →
    ∃ r, runFrame n s = .next r ∧ r.faults = [] ∧ r.frameReady = 1 ∧
      r.state.dt.toNat = s.dt.toNat - 1 ∧ r.state.st.toNat = s.st.toNat - 1 ∧
      ChangesOnly s r.state (fun p => p = .delay ∨ p = .sound)

/-- R250, R30, R32: from a legal state every frame completes in a legal state, with at most one fault a cycle, and with
the keys and `Q` unchanged. -/
def Obligations.FrameCompletesAndKeepsInvariant : Prop :=
  ∀ (n : Nat) (s : State), s.Inv →
    ∃ r, runFrame n s = .next r ∧ r.state.Inv ∧ r.faults.length ≤ n ∧ r.state.q = s.q ∧ ∀ k, r.state.key k = s.key k

/-- R255: from a legal state every session of host turns completes in a legal state, with one `frame_ready` a turn. -/
def Obligations.SessionCompletesAndKeepsInvariant : Prop :=
  ∀ (inputs : List FrameInput) (s : State), s.Inv →
    ∃ u rs, session inputs s = .next (u, rs) ∧ u.Inv ∧ rs.length = inputs.length ∧ ∀ r ∈ rs, r.frameReady = 1

/-! ## Reset (70_reset_and_hazards.md) -/

/-- R310, R271: a configuration with an illegal font base is refused; with a legal one, an image longer than 3584 bytes is
a LoadFault with its length and no machine exists (D10, D30; assumption log 23). -/
def Obligations.BootRefusesWhatCannotBeLoaded : Prop :=
  ∀ (q : Quirks) (font : Vector Byte 80) (image : List Byte),
    (0x200 < q.fontBase + 80 → State.boot q font image = .refused (.illegalFontBase q.fontBase)) ∧
    (q.fontBase + 80 ≤ 0x200 → 3584 < image.length → State.boot q font image = .fault (.loadFault image.length))

/-- R310, R53: reset with a legal `Q` and an image that fits makes a legal machine whose memory holds the font at the font
base, the image at 0x200 and 0 elsewhere, with `pc = 0x200` and every other field as after the default reset (the zeros
are D11's, assumption log 3). -/
def Obligations.BootLoadsFontAndImage : Prop :=
  ∀ (q : Quirks) (font : Vector Byte 80) (image : List Byte), q.fontBase + 80 ≤ 0x200 → image.length ≤ 3584 →
    ∃ t, State.boot q font image = .next t ∧ t.Inv ∧ t.q = q ∧ t.pc.toNat = 0x200 ∧
      (∀ k : Fin 80, t.readByte (q.fontBase + k.val) = font.get k) ∧
      (∀ k (h : k < image.length), t.readByte (0x200 + k) = image[k]) ∧
      (∀ a, a < 4096 → (a < q.fontBase ∨ q.fontBase + 80 ≤ a) → (a < 0x200 ∨ 0x200 + image.length ≤ a) →
        t.readByte a = 0) ∧
      ChangesOnly State.reset t (fun p => p = .quirks ∨ ∃ a, p = .byte a)

/-- The reset state of the model is `reset` at the default `Q` with the default font and the empty image (assumption
logs 4, 9 and 20). -/
def Obligations.ResetIsBootOfEmptyImage : Prop :=
  State.boot Quirks.default defaultFont [] = .next State.reset

/-- R50 to R57 at the model's reset state (the zeros are D11's, assumption log 3; PC is the source's), and the invariant
holds there. -/
def Obligations.ResetValuesAndInvariant : Prop :=
  State.reset.Inv ∧ State.reset.pc = 0x200 ∧ (∀ r, State.reset.readV r = 0) ∧ State.reset.i = 0 ∧
  State.reset.sp.val = 0 ∧ State.reset.dt = 0 ∧ State.reset.st = 0 ∧ (∀ k, State.reset.key k = false) ∧
  (∀ r c, State.reset.pixel r c = false) ∧ (∀ a, 80 ≤ a → State.reset.readByte a = 0)

/-! ## The whole machine -/

/-- Every step from a legal state ends in a legal state: canonical memory, a legal `Q` (R7), `pc <= 0x10FE` (R24, R33)
and stack entries at most 4096 (R24). -/
def Obligations.EveryStepKeepsInvariant : Prop :=
  ∀ s t : State, s.Inv → step s = .next t → t.Inv

/-- R20 to R31, R124: no instruction changes any part of the state outside its footprint: among others, no instruction
writes `KEYS` or `Q`, only CALL and RET move the stack, only CLS and DRW touch the framebuffer, only the flag writers of
R21 write VF without naming it, and R24: only the control transfers, skips and `LD Vx, K` move PC off the advanced PC. -/
def Obligations.InstructionsStayInTheirFootprint : Prop :=
  ∀ (i : Instr) (s t : State), s.mem.wf = true → exec i s = .next t → ChangesOnly s t (footprint i s)

/-- R124: a step "never touches `DT` or `ST` except through LD DT, Vx and LD ST, Vx, never writes `KEYS` or `Q`". -/
def Obligations.StepTouchesTimersOnlyByTheirInstructions : Prop :=
  ∀ s t : State, step s = .next t →
    t.q = s.q ∧ (∀ k, t.key k = s.key k) ∧
    (t.dt ≠ s.dt → ∃ x, decodeWord s.fetchWord = .ok (.ldDtVx x) ∧ t.dt = s.readV x) ∧
    (t.st ≠ s.st → ∃ x, decodeWord s.fetchWord = .ok (.ldStVx x) ∧ t.st = s.readV x)

/-- R275: no instruction can observe that a fault happened: frames from two states that differ only in the fault output
report the same faults and end in states that differ at most there. -/
def Obligations.FaultOutputIsNeverReadBack : Prop :=
  ∀ (n : Nat) (s : State) (rep : Option FaultRecord),
    ∃ a b, runFrame n s = .next a ∧ runFrame n { s with report := rep } = .next b ∧ a.faults = b.faults ∧
      { a.state with report := none } = { b.state with report := none }

/-- R29, R236: no instruction reads `ST`: two states that differ only in the sound timer step to states that differ at
most there. -/
def Obligations.SoundTimerIsNeverRead : Prop :=
  ∀ (s t : State) (b : Byte), step s = .next t →
    ∃ u, step { s with st := b } = .next u ∧ { u with st := 0 } = { t with st := 0 }
end

