-- ==== Sys2Proof/Laws/Decode.lean ====
section
/-! SUPPORT. The fields of an encoded word are the operands it was built from, and a word is the join of its fields. -/

namespace Sys2Proof

/-! ## Bits of a join -/

theorem extract_high {n m : Nat} (a : BitVec n) (b : BitVec m) : (a ++ b).extractLsb' m n = a :=
  BitVec.extractLsb'_append_eq_left

theorem extract_within_low {n m : Nat} (a : BitVec n) (b : BitVec m) {start len : Nat} (h : start + len ≤ m) :
    (a ++ b).extractLsb' start len = b.extractLsb' start len := by
  ext i hi
  simp only [BitVec.getElem_extractLsb', BitVec.getLsbD_append]
  rw [if_pos (by omega)]

/-! ## Format ADDR -/

section Addr
variable (c : BitVec 4) (nnn : BitVec 12)

@[simp] theorem fieldC_encodeAddr : fieldC (encodeAddr c nnn) = c := extract_high c nnn

@[simp] theorem fieldNNN_encodeAddr : fieldNNN (encodeAddr c nnn) = nnn := BitVec.extractLsb'_append_eq_right

@[simp] theorem fieldX_encodeAddr : fieldX (encodeAddr c nnn) = topNibble nnn :=
  congrArg BitVec.toFin (extract_within_low c nnn (by omega))

end Addr

/-! ## Formats XIMM and XOP -/

section XImm
variable (c : BitVec 4) (x : RegIdx) (nn : Byte)

@[simp] theorem fieldC_encodeXImm : fieldC (encodeXImm c x nn) = c := extract_high c (BitVec.ofFin (w := 4) x ++ nn)

@[simp] theorem fieldX_encodeXImm : fieldX (encodeXImm c x nn) = x :=
  congrArg BitVec.toFin ((extract_within_low c (BitVec.ofFin (w := 4) x ++ nn) (by omega)).trans (extract_high _ nn))

@[simp] theorem fieldNN_encodeXImm : fieldNN (encodeXImm c x nn) = nn :=
  (extract_within_low c (BitVec.ofFin (w := 4) x ++ nn) (by omega)).trans BitVec.extractLsb'_append_eq_right

end XImm

/-! ## Formats XY and XYN -/

section XYN
variable (c : BitVec 4) (x y : RegIdx) (n : BitVec 4)

@[simp] theorem fieldC_encodeXYN : fieldC (encodeXYN c x y n) = c :=
  extract_high c (BitVec.ofFin (w := 4) x ++ (BitVec.ofFin (w := 4) y ++ n))

@[simp] theorem fieldX_encodeXYN : fieldX (encodeXYN c x y n) = x :=
  congrArg BitVec.toFin ((extract_within_low c (BitVec.ofFin (w := 4) x ++ (BitVec.ofFin (w := 4) y ++ n))
    (by omega)).trans (extract_high _ _))

@[simp] theorem fieldY_encodeXYN : fieldY (encodeXYN c x y n) = y :=
  congrArg BitVec.toFin ((extract_within_low c (BitVec.ofFin (w := 4) x ++ (BitVec.ofFin (w := 4) y ++ n))
    (by omega)).trans ((extract_within_low _ (BitVec.ofFin (w := 4) y ++ n) (by omega)).trans (extract_high _ n)))

@[simp] theorem fieldN_encodeXYN : fieldN (encodeXYN c x y n) = n :=
  (extract_within_low c (BitVec.ofFin (w := 4) x ++ (BitVec.ofFin (w := 4) y ++ n)) (by omega)).trans
    ((extract_within_low _ (BitVec.ofFin (w := 4) y ++ n) (by omega)).trans BitVec.extractLsb'_append_eq_right)

end XYN

/-! ## A word is the join of its fields -/

theorem join_low {start len : Nat} (op : Word) (len' : Nat) (h : start = len') :
    op.extractLsb' start len ++ op.extractLsb' 0 len' = op.extractLsb' 0 (len + len') :=
  BitVec.extractLsb'_append_extractLsb'_eq_extractLsb' (by omega)

theorem extract_whole (op : Word) : op.extractLsb' 0 16 = op := BitVec.extractLsb'_eq_self

theorem encodeAddr_fields (op : Word) : encodeAddr (fieldC op) (fieldNNN op) = op :=
  (join_low (len := 4) op 12 rfl).trans (extract_whole op)

theorem encodeXImm_fields (op : Word) : encodeXImm (fieldC op) (fieldX op) (fieldNN op) = op :=
  (congrArg (fieldC op ++ ·) (join_low (len := 4) op 8 rfl)).trans (encodeAddr_fields op)

theorem encodeXYN_fields (op : Word) : encodeXYN (fieldC op) (fieldX op) (fieldY op) (fieldN op) = op :=
  (congrArg (fun b : BitVec 8 => fieldC op ++ (BitVec.ofFin (w := 4) (fieldX op) ++ b))
    (join_low (len := 4) op 4 rfl)).trans (encodeXImm_fields op)

theorem topNibble_fieldNNN (op : Word) : topNibble (fieldNNN op) = fieldX op := by
  conv_rhs => rw [← encodeAddr_fields op, fieldX_encodeAddr]

/-- A word laid out as the hardware stores it is the word fetched (20_memory.md R63). -/
theorem wordOfBytes_split (op : Word) : wordOfBytes (op.extractLsb' 8 8) (op.extractLsb' 0 8) = op :=
  (join_low (len := 8) op 8 rfl).trans (extract_whole op)

end Sys2Proof
end

