-- ==== Sys2Proof/Laws/Memory.lean ====
section
/-! SUPPORT. The laws of memory: a write is read back at its address and nowhere else, and every operation keeps the
canonical form. -/

namespace Sys2Proof.Machine

@[simp] theorem Memory.read_nil (a : Nat) : Memory.read [] a = Memory.unlisted a := rfl

theorem Memory.read_cons (b : Nat) (w : Byte) (rest : Memory) (a : Nat) :
    Memory.read ((b, w) :: rest) a = if a = b then w else Memory.read rest a := rfl

/-- A memory in canonical form from `lo` up lists nothing below `lo`. -/
theorem Memory.read_below {m : Memory} {lo a : Nat} (h : Memory.wfFrom lo m = true) (ha : a < lo) :
    Memory.read m a = Memory.unlisted a := by
  induction m generalizing lo with
  | nil => rfl
  | cons c rest ih =>
    obtain ⟨b, w⟩ := c
    simp only [Memory.wfFrom, Bool.and_eq_true, decide_eq_true_eq] at h
    rw [Memory.read_cons, if_neg (by omega)]
    exact ih h.2 (by omega)

theorem Memory.wfFrom_mono {m : Memory} {lo lo' : Nat} (h : Memory.wfFrom lo m = true) (hl : lo' ≤ lo) :
    Memory.wfFrom lo' m = true := by
  cases m with
  | nil => rfl
  | cons c rest =>
    obtain ⟨b, w⟩ := c
    simp only [Memory.wfFrom, Bool.and_eq_true, decide_eq_true_eq] at h ⊢
    exact ⟨⟨⟨by omega, h.1.1.2⟩, h.1.2⟩, h.2⟩

theorem Memory.wfFrom_put {rest : Memory} {lo a : Nat} {w : Byte} (h : Memory.wfFrom (a + 1) rest = true)
    (hl : lo ≤ a) (ha : a < Config.memSize) : Memory.wfFrom lo (Memory.put a w rest) = true := by
  unfold Memory.put
  split
  · exact Memory.wfFrom_mono h (by omega)
  · simp [Memory.wfFrom, *]

theorem Memory.read_put {rest : Memory} {a : Nat} {w : Byte} (h : Memory.wfFrom (a + 1) rest = true) (a' : Nat) :
    Memory.read (Memory.put a w rest) a' = if a' = a then w else Memory.read rest a' := by
  unfold Memory.put
  split
  · split
    · subst_vars; rw [Memory.read_below h (by omega)]
    · rfl
  · rfl

theorem Memory.wfFrom_write {m : Memory} {lo a : Nat} {w : Byte} (h : Memory.wfFrom lo m = true) (hl : lo ≤ a)
    (ha : a < Config.memSize) : Memory.wfFrom lo (Memory.write m a w) = true := by
  induction m generalizing lo with
  | nil => exact Memory.wfFrom_put rfl hl ha
  | cons c rest ih =>
    obtain ⟨b, u⟩ := c
    simp only [Memory.wfFrom, Bool.and_eq_true, decide_eq_true_eq] at h
    unfold Memory.write
    split
    · refine Memory.wfFrom_put ?_ hl ha
      simp [Memory.wfFrom, h]
      omega
    · split
      · subst_vars; exact Memory.wfFrom_put h.2 hl ha
      · simp [Memory.wfFrom, h]
        exact ih h.2 (by omega)

/-- Every write inside memory keeps the canonical form. -/
theorem Memory.wf_write {m : Memory} {a : Nat} {w : Byte} (h : Memory.wf m = true) (ha : a < Config.memSize) :
    Memory.wf (Memory.write m a w) = true :=
  Memory.wfFrom_write h (by omega) ha

theorem Memory.read_write_from {m : Memory} {lo a : Nat} {w : Byte} (h : Memory.wfFrom lo m = true) (a' : Nat) :
    Memory.read (Memory.write m a w) a' = if a' = a then w else Memory.read m a' := by
  induction m generalizing lo with
  | nil => exact Memory.read_put rfl a'
  | cons c rest ih =>
    obtain ⟨b, u⟩ := c
    simp only [Memory.wfFrom, Bool.and_eq_true, decide_eq_true_eq] at h
    unfold Memory.write
    split
    · exact Memory.read_put (by simp [Memory.wfFrom, h]; omega) a'
    · split
      · subst_vars
        rw [Memory.read_put h.2, Memory.read_cons]
        split <;> rfl
      · rw [Memory.read_cons, ih h.2, Memory.read_cons]
        split
        · rw [if_neg (by omega)]
        · rfl

/-- A write is read back at its address, and leaves every other address as it was. -/
theorem Memory.read_write {m : Memory} (h : Memory.wf m = true) (a : Nat) (w : Byte) (a' : Nat) :
    Memory.read (Memory.write m a w) a' = if a' = a then w else Memory.read m a' :=
  Memory.read_write_from h a'

theorem Memory.wfFrom_ofContents (f : Nat → Byte) (lo n : Nat) (h : lo + n ≤ Config.memSize) :
    Memory.wfFrom lo (Memory.ofContents f lo n) = true := by
  induction n generalizing lo with
  | zero => rfl
  | succ k ih => exact Memory.wfFrom_put (ih (lo + 1) (by omega)) (Nat.le_refl _) (by omega)

/-- A memory made from given contents reads as those contents. -/
theorem Memory.read_ofContents (f : Nat → Byte) (lo n : Nat) (h : lo + n ≤ Config.memSize) (a : Nat) :
    Memory.read (Memory.ofContents f lo n) a = if lo ≤ a ∧ a < lo + n then f a else Memory.unlisted a := by
  induction n generalizing lo with
  | zero => rw [if_neg (by omega)]; rfl
  | succ k ih =>
    rw [Memory.ofContents, Memory.read_put (Memory.wfFrom_ofContents f (lo + 1) k (by omega)), ih (lo + 1) (by omega)]
    by_cases ha : a = lo
    · subst ha; simp
    · rw [if_neg ha]
      by_cases hb : lo + 1 ≤ a ∧ a < lo + 1 + k
      · rw [if_pos hb, if_pos (by omega)]
      · rw [if_neg hb, if_neg (by omega)]

end Sys2Proof.Machine
end

