-- ==== Sys2Proof/Laws/State.lean ====
section
/-! SUPPORT. One lemma per field of State per update, true by rfl, so that no later proof unfolds a record update. -/

namespace Sys2Proof.Machine

variable (s : State)

/-! ## `writeV` -/

@[simp] theorem State.writeV_v (r : RegIdx) (b : Byte) : (s.writeV r b).v = s.v.set r b := rfl
@[simp] theorem State.writeV_i (r : RegIdx) (b : Byte) : (s.writeV r b).i = s.i := rfl
@[simp] theorem State.writeV_pc (r : RegIdx) (b : Byte) : (s.writeV r b).pc = s.pc := rfl
@[simp] theorem State.writeV_stack (r : RegIdx) (b : Byte) : (s.writeV r b).stack = s.stack := rfl
@[simp] theorem State.writeV_sp (r : RegIdx) (b : Byte) : (s.writeV r b).sp = s.sp := rfl
@[simp] theorem State.writeV_fb (r : RegIdx) (b : Byte) : (s.writeV r b).fb = s.fb := rfl
@[simp] theorem State.writeV_dt (r : RegIdx) (b : Byte) : (s.writeV r b).dt = s.dt := rfl
@[simp] theorem State.writeV_st (r : RegIdx) (b : Byte) : (s.writeV r b).st = s.st := rfl
@[simp] theorem State.writeV_keys (r : RegIdx) (b : Byte) : (s.writeV r b).keys = s.keys := rfl
@[simp] theorem State.writeV_mem (r : RegIdx) (b : Byte) : (s.writeV r b).mem = s.mem := rfl
@[simp] theorem State.writeV_q (r : RegIdx) (b : Byte) : (s.writeV r b).q = s.q := rfl
@[simp] theorem State.writeV_rndQueue (r : RegIdx) (b : Byte) : (s.writeV r b).rndQueue = s.rndQueue := rfl
@[simp] theorem State.writeV_rndDrawn (r : RegIdx) (b : Byte) : (s.writeV r b).rndDrawn = s.rndDrawn := rfl
@[simp] theorem State.writeV_report (r : RegIdx) (b : Byte) : (s.writeV r b).report = s.report := rfl

/-! ## `setIndex` -/

@[simp] theorem State.setIndex_v (w : Word) : (s.setIndex w).v = s.v := rfl
@[simp] theorem State.setIndex_i (w : Word) : (s.setIndex w).i = w := rfl
@[simp] theorem State.setIndex_pc (w : Word) : (s.setIndex w).pc = s.pc := rfl
@[simp] theorem State.setIndex_stack (w : Word) : (s.setIndex w).stack = s.stack := rfl
@[simp] theorem State.setIndex_sp (w : Word) : (s.setIndex w).sp = s.sp := rfl
@[simp] theorem State.setIndex_fb (w : Word) : (s.setIndex w).fb = s.fb := rfl
@[simp] theorem State.setIndex_dt (w : Word) : (s.setIndex w).dt = s.dt := rfl
@[simp] theorem State.setIndex_st (w : Word) : (s.setIndex w).st = s.st := rfl
@[simp] theorem State.setIndex_keys (w : Word) : (s.setIndex w).keys = s.keys := rfl
@[simp] theorem State.setIndex_mem (w : Word) : (s.setIndex w).mem = s.mem := rfl
@[simp] theorem State.setIndex_q (w : Word) : (s.setIndex w).q = s.q := rfl
@[simp] theorem State.setIndex_rndQueue (w : Word) : (s.setIndex w).rndQueue = s.rndQueue := rfl
@[simp] theorem State.setIndex_rndDrawn (w : Word) : (s.setIndex w).rndDrawn = s.rndDrawn := rfl
@[simp] theorem State.setIndex_report (w : Word) : (s.setIndex w).report = s.report := rfl

/-! ## `setPc` -/

@[simp] theorem State.setPc_v (w : Word) : (s.setPc w).v = s.v := rfl
@[simp] theorem State.setPc_i (w : Word) : (s.setPc w).i = s.i := rfl
@[simp] theorem State.setPc_pc (w : Word) : (s.setPc w).pc = w := rfl
@[simp] theorem State.setPc_stack (w : Word) : (s.setPc w).stack = s.stack := rfl
@[simp] theorem State.setPc_sp (w : Word) : (s.setPc w).sp = s.sp := rfl
@[simp] theorem State.setPc_fb (w : Word) : (s.setPc w).fb = s.fb := rfl
@[simp] theorem State.setPc_dt (w : Word) : (s.setPc w).dt = s.dt := rfl
@[simp] theorem State.setPc_st (w : Word) : (s.setPc w).st = s.st := rfl
@[simp] theorem State.setPc_keys (w : Word) : (s.setPc w).keys = s.keys := rfl
@[simp] theorem State.setPc_mem (w : Word) : (s.setPc w).mem = s.mem := rfl
@[simp] theorem State.setPc_q (w : Word) : (s.setPc w).q = s.q := rfl
@[simp] theorem State.setPc_rndQueue (w : Word) : (s.setPc w).rndQueue = s.rndQueue := rfl
@[simp] theorem State.setPc_rndDrawn (w : Word) : (s.setPc w).rndDrawn = s.rndDrawn := rfl
@[simp] theorem State.setPc_report (w : Word) : (s.setPc w).report = s.report := rfl

/-! ## `setDelay` -/

@[simp] theorem State.setDelay_v (b : Byte) : (s.setDelay b).v = s.v := rfl
@[simp] theorem State.setDelay_i (b : Byte) : (s.setDelay b).i = s.i := rfl
@[simp] theorem State.setDelay_pc (b : Byte) : (s.setDelay b).pc = s.pc := rfl
@[simp] theorem State.setDelay_stack (b : Byte) : (s.setDelay b).stack = s.stack := rfl
@[simp] theorem State.setDelay_sp (b : Byte) : (s.setDelay b).sp = s.sp := rfl
@[simp] theorem State.setDelay_fb (b : Byte) : (s.setDelay b).fb = s.fb := rfl
@[simp] theorem State.setDelay_dt (b : Byte) : (s.setDelay b).dt = b := rfl
@[simp] theorem State.setDelay_st (b : Byte) : (s.setDelay b).st = s.st := rfl
@[simp] theorem State.setDelay_keys (b : Byte) : (s.setDelay b).keys = s.keys := rfl
@[simp] theorem State.setDelay_mem (b : Byte) : (s.setDelay b).mem = s.mem := rfl
@[simp] theorem State.setDelay_q (b : Byte) : (s.setDelay b).q = s.q := rfl
@[simp] theorem State.setDelay_rndQueue (b : Byte) : (s.setDelay b).rndQueue = s.rndQueue := rfl
@[simp] theorem State.setDelay_rndDrawn (b : Byte) : (s.setDelay b).rndDrawn = s.rndDrawn := rfl
@[simp] theorem State.setDelay_report (b : Byte) : (s.setDelay b).report = s.report := rfl

/-! ## `setSound` -/

@[simp] theorem State.setSound_v (b : Byte) : (s.setSound b).v = s.v := rfl
@[simp] theorem State.setSound_i (b : Byte) : (s.setSound b).i = s.i := rfl
@[simp] theorem State.setSound_pc (b : Byte) : (s.setSound b).pc = s.pc := rfl
@[simp] theorem State.setSound_stack (b : Byte) : (s.setSound b).stack = s.stack := rfl
@[simp] theorem State.setSound_sp (b : Byte) : (s.setSound b).sp = s.sp := rfl
@[simp] theorem State.setSound_fb (b : Byte) : (s.setSound b).fb = s.fb := rfl
@[simp] theorem State.setSound_dt (b : Byte) : (s.setSound b).dt = s.dt := rfl
@[simp] theorem State.setSound_st (b : Byte) : (s.setSound b).st = b := rfl
@[simp] theorem State.setSound_keys (b : Byte) : (s.setSound b).keys = s.keys := rfl
@[simp] theorem State.setSound_mem (b : Byte) : (s.setSound b).mem = s.mem := rfl
@[simp] theorem State.setSound_q (b : Byte) : (s.setSound b).q = s.q := rfl
@[simp] theorem State.setSound_rndQueue (b : Byte) : (s.setSound b).rndQueue = s.rndQueue := rfl
@[simp] theorem State.setSound_rndDrawn (b : Byte) : (s.setSound b).rndDrawn = s.rndDrawn := rfl
@[simp] theorem State.setSound_report (b : Byte) : (s.setSound b).report = s.report := rfl

/-! ## `push` -/

@[simp] theorem State.push_v (w : Word) (h : s.sp.val < 12) : (s.push w h).v = s.v := rfl
@[simp] theorem State.push_i (w : Word) (h : s.sp.val < 12) : (s.push w h).i = s.i := rfl
@[simp] theorem State.push_pc (w : Word) (h : s.sp.val < 12) : (s.push w h).pc = s.pc := rfl
@[simp] theorem State.push_stack (w : Word) (h : s.sp.val < 12) : (s.push w h).stack = s.stack.set s.sp.val w := rfl
@[simp] theorem State.push_sp (w : Word) (h : s.sp.val < 12) : (s.push w h).sp = ⟨s.sp.val + 1, by omega⟩ := rfl
@[simp] theorem State.push_fb (w : Word) (h : s.sp.val < 12) : (s.push w h).fb = s.fb := rfl
@[simp] theorem State.push_dt (w : Word) (h : s.sp.val < 12) : (s.push w h).dt = s.dt := rfl
@[simp] theorem State.push_st (w : Word) (h : s.sp.val < 12) : (s.push w h).st = s.st := rfl
@[simp] theorem State.push_keys (w : Word) (h : s.sp.val < 12) : (s.push w h).keys = s.keys := rfl
@[simp] theorem State.push_mem (w : Word) (h : s.sp.val < 12) : (s.push w h).mem = s.mem := rfl
@[simp] theorem State.push_q (w : Word) (h : s.sp.val < 12) : (s.push w h).q = s.q := rfl
@[simp] theorem State.push_rndQueue (w : Word) (h : s.sp.val < 12) : (s.push w h).rndQueue = s.rndQueue := rfl
@[simp] theorem State.push_rndDrawn (w : Word) (h : s.sp.val < 12) : (s.push w h).rndDrawn = s.rndDrawn := rfl
@[simp] theorem State.push_report (w : Word) (h : s.sp.val < 12) : (s.push w h).report = s.report := rfl

/-! ## `popToPc` -/

@[simp] theorem State.popToPc_v (h : 0 < s.sp.val) : (s.popToPc h).v = s.v := rfl
@[simp] theorem State.popToPc_i (h : 0 < s.sp.val) : (s.popToPc h).i = s.i := rfl
@[simp] theorem State.popToPc_pc (h : 0 < s.sp.val) : (s.popToPc h).pc = s.stack[s.sp.val - 1]'(by omega) := rfl
@[simp] theorem State.popToPc_stack (h : 0 < s.sp.val) : (s.popToPc h).stack = s.stack := rfl
@[simp] theorem State.popToPc_sp (h : 0 < s.sp.val) : (s.popToPc h).sp = ⟨s.sp.val - 1, by omega⟩ := rfl
@[simp] theorem State.popToPc_fb (h : 0 < s.sp.val) : (s.popToPc h).fb = s.fb := rfl
@[simp] theorem State.popToPc_dt (h : 0 < s.sp.val) : (s.popToPc h).dt = s.dt := rfl
@[simp] theorem State.popToPc_st (h : 0 < s.sp.val) : (s.popToPc h).st = s.st := rfl
@[simp] theorem State.popToPc_keys (h : 0 < s.sp.val) : (s.popToPc h).keys = s.keys := rfl
@[simp] theorem State.popToPc_mem (h : 0 < s.sp.val) : (s.popToPc h).mem = s.mem := rfl
@[simp] theorem State.popToPc_q (h : 0 < s.sp.val) : (s.popToPc h).q = s.q := rfl
@[simp] theorem State.popToPc_rndQueue (h : 0 < s.sp.val) : (s.popToPc h).rndQueue = s.rndQueue := rfl
@[simp] theorem State.popToPc_rndDrawn (h : 0 < s.sp.val) : (s.popToPc h).rndDrawn = s.rndDrawn := rfl
@[simp] theorem State.popToPc_report (h : 0 < s.sp.val) : (s.popToPc h).report = s.report := rfl

/-! ## `writeByte` -/

@[simp] theorem State.writeByte_v (a : Nat) (b : Byte) : (s.writeByte a b).v = s.v := rfl
@[simp] theorem State.writeByte_i (a : Nat) (b : Byte) : (s.writeByte a b).i = s.i := rfl
@[simp] theorem State.writeByte_pc (a : Nat) (b : Byte) : (s.writeByte a b).pc = s.pc := rfl
@[simp] theorem State.writeByte_stack (a : Nat) (b : Byte) : (s.writeByte a b).stack = s.stack := rfl
@[simp] theorem State.writeByte_sp (a : Nat) (b : Byte) : (s.writeByte a b).sp = s.sp := rfl
@[simp] theorem State.writeByte_fb (a : Nat) (b : Byte) : (s.writeByte a b).fb = s.fb := rfl
@[simp] theorem State.writeByte_dt (a : Nat) (b : Byte) : (s.writeByte a b).dt = s.dt := rfl
@[simp] theorem State.writeByte_st (a : Nat) (b : Byte) : (s.writeByte a b).st = s.st := rfl
@[simp] theorem State.writeByte_keys (a : Nat) (b : Byte) : (s.writeByte a b).keys = s.keys := rfl
@[simp] theorem State.writeByte_mem (a : Nat) (b : Byte) : (s.writeByte a b).mem = s.mem.write a b := rfl
@[simp] theorem State.writeByte_q (a : Nat) (b : Byte) : (s.writeByte a b).q = s.q := rfl
@[simp] theorem State.writeByte_rndQueue (a : Nat) (b : Byte) : (s.writeByte a b).rndQueue = s.rndQueue := rfl
@[simp] theorem State.writeByte_rndDrawn (a : Nat) (b : Byte) : (s.writeByte a b).rndDrawn = s.rndDrawn := rfl
@[simp] theorem State.writeByte_report (a : Nat) (b : Byte) : (s.writeByte a b).report = s.report := rfl

/-! ## `consumeRandom` -/

@[simp] theorem State.consumeRandom_v : (s.consumeRandom).v = s.v := rfl
@[simp] theorem State.consumeRandom_i : (s.consumeRandom).i = s.i := rfl
@[simp] theorem State.consumeRandom_pc : (s.consumeRandom).pc = s.pc := rfl
@[simp] theorem State.consumeRandom_stack : (s.consumeRandom).stack = s.stack := rfl
@[simp] theorem State.consumeRandom_sp : (s.consumeRandom).sp = s.sp := rfl
@[simp] theorem State.consumeRandom_fb : (s.consumeRandom).fb = s.fb := rfl
@[simp] theorem State.consumeRandom_dt : (s.consumeRandom).dt = s.dt := rfl
@[simp] theorem State.consumeRandom_st : (s.consumeRandom).st = s.st := rfl
@[simp] theorem State.consumeRandom_keys : (s.consumeRandom).keys = s.keys := rfl
@[simp] theorem State.consumeRandom_mem : (s.consumeRandom).mem = s.mem := rfl
@[simp] theorem State.consumeRandom_q : (s.consumeRandom).q = s.q := rfl
@[simp] theorem State.consumeRandom_rndQueue : (s.consumeRandom).rndQueue = s.rndQueue.tail := rfl
@[simp] theorem State.consumeRandom_rndDrawn : (s.consumeRandom).rndDrawn = s.rndDrawn + 1 := rfl
@[simp] theorem State.consumeRandom_report : (s.consumeRandom).report = s.report := rfl

/-! ## `raise` -/

@[simp] theorem State.raise_v (r : FaultRecord) : (s.raise r).v = s.v := rfl
@[simp] theorem State.raise_i (r : FaultRecord) : (s.raise r).i = s.i := rfl
@[simp] theorem State.raise_pc (r : FaultRecord) : (s.raise r).pc = s.pc := rfl
@[simp] theorem State.raise_stack (r : FaultRecord) : (s.raise r).stack = s.stack := rfl
@[simp] theorem State.raise_sp (r : FaultRecord) : (s.raise r).sp = s.sp := rfl
@[simp] theorem State.raise_fb (r : FaultRecord) : (s.raise r).fb = s.fb := rfl
@[simp] theorem State.raise_dt (r : FaultRecord) : (s.raise r).dt = s.dt := rfl
@[simp] theorem State.raise_st (r : FaultRecord) : (s.raise r).st = s.st := rfl
@[simp] theorem State.raise_keys (r : FaultRecord) : (s.raise r).keys = s.keys := rfl
@[simp] theorem State.raise_mem (r : FaultRecord) : (s.raise r).mem = s.mem := rfl
@[simp] theorem State.raise_q (r : FaultRecord) : (s.raise r).q = s.q := rfl
@[simp] theorem State.raise_rndQueue (r : FaultRecord) : (s.raise r).rndQueue = s.rndQueue := rfl
@[simp] theorem State.raise_rndDrawn (r : FaultRecord) : (s.raise r).rndDrawn = s.rndDrawn := rfl
@[simp] theorem State.raise_report (r : FaultRecord) : (s.raise r).report = some r := rfl

/-! ## `beginCycle` -/

@[simp] theorem State.beginCycle_v : (s.beginCycle).v = s.v := rfl
@[simp] theorem State.beginCycle_i : (s.beginCycle).i = s.i := rfl
@[simp] theorem State.beginCycle_pc : (s.beginCycle).pc = s.pc + 2 := rfl
@[simp] theorem State.beginCycle_stack : (s.beginCycle).stack = s.stack := rfl
@[simp] theorem State.beginCycle_sp : (s.beginCycle).sp = s.sp := rfl
@[simp] theorem State.beginCycle_fb : (s.beginCycle).fb = s.fb := rfl
@[simp] theorem State.beginCycle_dt : (s.beginCycle).dt = s.dt := rfl
@[simp] theorem State.beginCycle_st : (s.beginCycle).st = s.st := rfl
@[simp] theorem State.beginCycle_keys : (s.beginCycle).keys = s.keys := rfl
@[simp] theorem State.beginCycle_mem : (s.beginCycle).mem = s.mem := rfl
@[simp] theorem State.beginCycle_q : (s.beginCycle).q = s.q := rfl
@[simp] theorem State.beginCycle_rndQueue : (s.beginCycle).rndQueue = s.rndQueue := rfl
@[simp] theorem State.beginCycle_rndDrawn : (s.beginCycle).rndDrawn = s.rndDrawn := rfl
@[simp] theorem State.beginCycle_report : (s.beginCycle).report = none := rfl

/-! ## `tickTimers` -/

@[simp] theorem State.tickTimers_v : (s.tickTimers).v = s.v := rfl
@[simp] theorem State.tickTimers_i : (s.tickTimers).i = s.i := rfl
@[simp] theorem State.tickTimers_pc : (s.tickTimers).pc = s.pc := rfl
@[simp] theorem State.tickTimers_stack : (s.tickTimers).stack = s.stack := rfl
@[simp] theorem State.tickTimers_sp : (s.tickTimers).sp = s.sp := rfl
@[simp] theorem State.tickTimers_fb : (s.tickTimers).fb = s.fb := rfl
@[simp] theorem State.tickTimers_dt : (s.tickTimers).dt = timerTick s.dt := rfl
@[simp] theorem State.tickTimers_st : (s.tickTimers).st = timerTick s.st := rfl
@[simp] theorem State.tickTimers_keys : (s.tickTimers).keys = s.keys := rfl
@[simp] theorem State.tickTimers_mem : (s.tickTimers).mem = s.mem := rfl
@[simp] theorem State.tickTimers_q : (s.tickTimers).q = s.q := rfl
@[simp] theorem State.tickTimers_rndQueue : (s.tickTimers).rndQueue = s.rndQueue := rfl
@[simp] theorem State.tickTimers_rndDrawn : (s.tickTimers).rndDrawn = s.rndDrawn := rfl
@[simp] theorem State.tickTimers_report : (s.tickTimers).report = s.report := rfl

/-! ## `writeKeys` -/

@[simp] theorem State.writeKeys_v (keys : Vector Bool 16) : (s.writeKeys keys).v = s.v := rfl
@[simp] theorem State.writeKeys_i (keys : Vector Bool 16) : (s.writeKeys keys).i = s.i := rfl
@[simp] theorem State.writeKeys_pc (keys : Vector Bool 16) : (s.writeKeys keys).pc = s.pc := rfl
@[simp] theorem State.writeKeys_stack (keys : Vector Bool 16) : (s.writeKeys keys).stack = s.stack := rfl
@[simp] theorem State.writeKeys_sp (keys : Vector Bool 16) : (s.writeKeys keys).sp = s.sp := rfl
@[simp] theorem State.writeKeys_fb (keys : Vector Bool 16) : (s.writeKeys keys).fb = s.fb := rfl
@[simp] theorem State.writeKeys_dt (keys : Vector Bool 16) : (s.writeKeys keys).dt = s.dt := rfl
@[simp] theorem State.writeKeys_st (keys : Vector Bool 16) : (s.writeKeys keys).st = s.st := rfl
@[simp] theorem State.writeKeys_keys (keys : Vector Bool 16) : (s.writeKeys keys).keys = keys := rfl
@[simp] theorem State.writeKeys_mem (keys : Vector Bool 16) : (s.writeKeys keys).mem = s.mem := rfl
@[simp] theorem State.writeKeys_q (keys : Vector Bool 16) : (s.writeKeys keys).q = s.q := rfl
@[simp] theorem State.writeKeys_rndQueue (keys : Vector Bool 16) : (s.writeKeys keys).rndQueue = s.rndQueue := rfl
@[simp] theorem State.writeKeys_rndDrawn (keys : Vector Bool 16) : (s.writeKeys keys).rndDrawn = s.rndDrawn := rfl
@[simp] theorem State.writeKeys_report (keys : Vector Bool 16) : (s.writeKeys keys).report = s.report := rfl

/-! ## `supplyRandom` -/

@[simp] theorem State.supplyRandom_v (bytes : List Byte) : (s.supplyRandom bytes).v = s.v := rfl
@[simp] theorem State.supplyRandom_i (bytes : List Byte) : (s.supplyRandom bytes).i = s.i := rfl
@[simp] theorem State.supplyRandom_pc (bytes : List Byte) : (s.supplyRandom bytes).pc = s.pc := rfl
@[simp] theorem State.supplyRandom_stack (bytes : List Byte) : (s.supplyRandom bytes).stack = s.stack := rfl
@[simp] theorem State.supplyRandom_sp (bytes : List Byte) : (s.supplyRandom bytes).sp = s.sp := rfl
@[simp] theorem State.supplyRandom_fb (bytes : List Byte) : (s.supplyRandom bytes).fb = s.fb := rfl
@[simp] theorem State.supplyRandom_dt (bytes : List Byte) : (s.supplyRandom bytes).dt = s.dt := rfl
@[simp] theorem State.supplyRandom_st (bytes : List Byte) : (s.supplyRandom bytes).st = s.st := rfl
@[simp] theorem State.supplyRandom_keys (bytes : List Byte) : (s.supplyRandom bytes).keys = s.keys := rfl
@[simp] theorem State.supplyRandom_mem (bytes : List Byte) : (s.supplyRandom bytes).mem = s.mem := rfl
@[simp] theorem State.supplyRandom_q (bytes : List Byte) : (s.supplyRandom bytes).q = s.q := rfl
@[simp] theorem State.supplyRandom_rndQueue (bytes : List Byte) : (s.supplyRandom bytes).rndQueue = s.rndQueue ++ bytes := rfl
@[simp] theorem State.supplyRandom_rndDrawn (bytes : List Byte) : (s.supplyRandom bytes).rndDrawn = s.rndDrawn := rfl
@[simp] theorem State.supplyRandom_report (bytes : List Byte) : (s.supplyRandom bytes).report = s.report := rfl

end Sys2Proof.Machine
end

