-- ==== Sys2Proof/Laws/Ops.lean ====
section
/-! SUPPORT. What each shared operation of Machine/Ops.lean, Flags.lean and Operands.lean does, said once. -/

namespace Sys2Proof.Machine

variable (s : State)

/-! ## What leaves `readV` as it was -/

@[simp] theorem State.readV_setIndex (w : Word) (r : RegIdx) : (s.setIndex w).readV r = s.readV r := rfl
@[simp] theorem State.readV_setPc (w : Word) (r : RegIdx) : (s.setPc w).readV r = s.readV r := rfl
@[simp] theorem State.readV_setDelay (b : Byte) (r : RegIdx) : (s.setDelay b).readV r = s.readV r := rfl
@[simp] theorem State.readV_setSound (b : Byte) (r : RegIdx) : (s.setSound b).readV r = s.readV r := rfl
@[simp] theorem State.readV_push (w : Word) (h : s.sp.val < 12) (r : RegIdx) : (s.push w h).readV r = s.readV r := rfl
@[simp] theorem State.readV_popToPc (h : 0 < s.sp.val) (r : RegIdx) : (s.popToPc h).readV r = s.readV r := rfl
@[simp] theorem State.readV_writeByte (m : Nat) (b : Byte) (r : RegIdx) : (s.writeByte m b).readV r = s.readV r := rfl
@[simp] theorem State.readV_consumeRandom (r : RegIdx) : (s.consumeRandom).readV r = s.readV r := rfl
@[simp] theorem State.readV_raise (f : FaultRecord) (r : RegIdx) : (s.raise f).readV r = s.readV r := rfl
@[simp] theorem State.readV_beginCycle (r : RegIdx) : (s.beginCycle).readV r = s.readV r := rfl
@[simp] theorem State.readV_tickTimers (r : RegIdx) : (s.tickTimers).readV r = s.readV r := rfl
@[simp] theorem State.readV_writeKeys (keys : Vector Bool 16) (r : RegIdx) : (s.writeKeys keys).readV r = s.readV r := rfl
@[simp] theorem State.readV_supplyRandom (bytes : List Byte) (r : RegIdx) : (s.supplyRandom bytes).readV r = s.readV r := rfl

/-! ## What leaves `readByte` as it was -/

@[simp] theorem State.readByte_writeV (d : RegIdx) (b : Byte) (a : Nat) : (s.writeV d b).readByte a = s.readByte a := rfl
@[simp] theorem State.readByte_setIndex (w : Word) (a : Nat) : (s.setIndex w).readByte a = s.readByte a := rfl
@[simp] theorem State.readByte_setPc (w : Word) (a : Nat) : (s.setPc w).readByte a = s.readByte a := rfl
@[simp] theorem State.readByte_setDelay (b : Byte) (a : Nat) : (s.setDelay b).readByte a = s.readByte a := rfl
@[simp] theorem State.readByte_setSound (b : Byte) (a : Nat) : (s.setSound b).readByte a = s.readByte a := rfl
@[simp] theorem State.readByte_push (w : Word) (h : s.sp.val < 12) (a : Nat) : (s.push w h).readByte a = s.readByte a := rfl
@[simp] theorem State.readByte_popToPc (h : 0 < s.sp.val) (a : Nat) : (s.popToPc h).readByte a = s.readByte a := rfl
@[simp] theorem State.readByte_consumeRandom (a : Nat) : (s.consumeRandom).readByte a = s.readByte a := rfl
@[simp] theorem State.readByte_raise (f : FaultRecord) (a : Nat) : (s.raise f).readByte a = s.readByte a := rfl
@[simp] theorem State.readByte_beginCycle (a : Nat) : (s.beginCycle).readByte a = s.readByte a := rfl
@[simp] theorem State.readByte_tickTimers (a : Nat) : (s.tickTimers).readByte a = s.readByte a := rfl
@[simp] theorem State.readByte_writeKeys (keys : Vector Bool 16) (a : Nat) : (s.writeKeys keys).readByte a = s.readByte a := rfl
@[simp] theorem State.readByte_supplyRandom (bytes : List Byte) (a : Nat) : (s.supplyRandom bytes).readByte a = s.readByte a := rfl

/-! ## What leaves `pixel` as it was -/

@[simp] theorem State.pixel_writeV (d : RegIdx) (b : Byte) (r c : Nat) : (s.writeV d b).pixel r c = s.pixel r c := rfl
@[simp] theorem State.pixel_setIndex (w : Word) (r c : Nat) : (s.setIndex w).pixel r c = s.pixel r c := rfl
@[simp] theorem State.pixel_setPc (w : Word) (r c : Nat) : (s.setPc w).pixel r c = s.pixel r c := rfl
@[simp] theorem State.pixel_setDelay (b : Byte) (r c : Nat) : (s.setDelay b).pixel r c = s.pixel r c := rfl
@[simp] theorem State.pixel_setSound (b : Byte) (r c : Nat) : (s.setSound b).pixel r c = s.pixel r c := rfl
@[simp] theorem State.pixel_push (w : Word) (h : s.sp.val < 12) (r c : Nat) : (s.push w h).pixel r c = s.pixel r c := rfl
@[simp] theorem State.pixel_popToPc (h : 0 < s.sp.val) (r c : Nat) : (s.popToPc h).pixel r c = s.pixel r c := rfl
@[simp] theorem State.pixel_writeByte (m : Nat) (b : Byte) (r c : Nat) : (s.writeByte m b).pixel r c = s.pixel r c := rfl
@[simp] theorem State.pixel_consumeRandom (r c : Nat) : (s.consumeRandom).pixel r c = s.pixel r c := rfl
@[simp] theorem State.pixel_raise (f : FaultRecord) (r c : Nat) : (s.raise f).pixel r c = s.pixel r c := rfl
@[simp] theorem State.pixel_beginCycle (r c : Nat) : (s.beginCycle).pixel r c = s.pixel r c := rfl
@[simp] theorem State.pixel_tickTimers (r c : Nat) : (s.tickTimers).pixel r c = s.pixel r c := rfl
@[simp] theorem State.pixel_writeKeys (keys : Vector Bool 16) (r c : Nat) : (s.writeKeys keys).pixel r c = s.pixel r c := rfl
@[simp] theorem State.pixel_supplyRandom (bytes : List Byte) (r c : Nat) : (s.supplyRandom bytes).pixel r c = s.pixel r c := rfl

/-! ## What leaves `key` as it was -/

@[simp] theorem State.key_writeV (d : RegIdx) (b : Byte) (k : Fin 16) : (s.writeV d b).key k = s.key k := rfl
@[simp] theorem State.key_setIndex (w : Word) (k : Fin 16) : (s.setIndex w).key k = s.key k := rfl
@[simp] theorem State.key_setPc (w : Word) (k : Fin 16) : (s.setPc w).key k = s.key k := rfl
@[simp] theorem State.key_setDelay (b : Byte) (k : Fin 16) : (s.setDelay b).key k = s.key k := rfl
@[simp] theorem State.key_setSound (b : Byte) (k : Fin 16) : (s.setSound b).key k = s.key k := rfl
@[simp] theorem State.key_push (w : Word) (h : s.sp.val < 12) (k : Fin 16) : (s.push w h).key k = s.key k := rfl
@[simp] theorem State.key_popToPc (h : 0 < s.sp.val) (k : Fin 16) : (s.popToPc h).key k = s.key k := rfl
@[simp] theorem State.key_writeByte (m : Nat) (b : Byte) (k : Fin 16) : (s.writeByte m b).key k = s.key k := rfl
@[simp] theorem State.key_consumeRandom (k : Fin 16) : (s.consumeRandom).key k = s.key k := rfl
@[simp] theorem State.key_raise (f : FaultRecord) (k : Fin 16) : (s.raise f).key k = s.key k := rfl
@[simp] theorem State.key_beginCycle (k : Fin 16) : (s.beginCycle).key k = s.key k := rfl
@[simp] theorem State.key_tickTimers (k : Fin 16) : (s.tickTimers).key k = s.key k := rfl
@[simp] theorem State.key_supplyRandom (bytes : List Byte) (k : Fin 16) : (s.supplyRandom bytes).key k = s.key k := rfl

/-! ## Registers -/

theorem State.readV_writeV (d : RegIdx) (b : Byte) (r : RegIdx) :
    (s.writeV d b).readV r = if r = d then b else s.readV r := by
  simp only [State.readV, State.writeV, Vector.get_eq_getElem, Vector.getElem_set, Fin.ext_iff]
  simp only [eq_comm]

@[simp] theorem State.readV_writeV_same (d : RegIdx) (b : Byte) : (s.writeV d b).readV d = b := by
  rw [State.readV_writeV, if_pos rfl]

theorem State.skipIf_eq (c : Bool) : s.skipIf c = s.setPc (if c then s.pc + 2 else s.pc) := by
  cases c <;> rfl

theorem State.logicFlag_eq : s.logicFlag = if s.q.resetFlagOnLogicOps then s.writeV vf 0 else s := rfl

theorem State.shiftSource_eq (x y : RegIdx) :
    s.shiftSource x y = s.writeV x (if s.q.shiftUsesY then s.readV y else s.readV x) := by
  unfold State.shiftSource
  split
  · rfl
  · simp [State.writeV, State.readV, Vector.get_eq_getElem]

theorem State.advanceIndex_eq (x : RegIdx) :
    s.advanceIndex x =
      s.setIndex (if s.q.incrementIndexOnBulkTransfer then s.i + BitVec.ofNat 16 (x.val + 1) else s.i) := by
  unfold State.advanceIndex
  split <;> rfl

theorem addrWord_toNat (nnn : BitVec 12) : (addrWord nnn).toNat = nnn.toNat := by
  have := nnn.isLt
  simp only [addrWord, BitVec.toNat_setWidth]
  omega

theorem toWord_toNat (b : Byte) : b.toWord.toNat = b.toNat := by
  have := b.isLt
  simp only [Byte.toWord, BitVec.toNat_setWidth]
  omega

/-! ## Address checks -/

theorem transferFits_iff (base n : Nat) : transferFits base n = true ↔ n = 0 ∨ base + n ≤ 4096 := by
  simp only [transferFits, Bool.or_eq_true, beq_iff_eq, decide_eq_true_eq]
  rfl

theorem State.canFetch_iff : s.canFetch = true ↔ s.pc.toNat ≤ 4094 := by
  rw [State.canFetch, transferFits_iff]
  omega

/-! ## Memory -/

variable {s} in
theorem State.readByte_writeByte (h : s.mem.wf = true) (m : Nat) (b : Byte) (a : Nat) :
    (s.writeByte m b).readByte a = if a = m then b else s.readByte a :=
  Memory.read_write h m b a

/-- A dump changes memory alone. -/
theorem State.dumpRegs_eq (base n : Nat) : s.dumpRegs base n = { s with mem := (s.dumpRegs base n).mem } := by
  induction n with
  | zero => rfl
  | succ k ih => rw [State.dumpRegs, ih]; rfl

@[simp] theorem State.readV_dumpRegs (base n : Nat) (r : RegIdx) : (s.dumpRegs base n).readV r = s.readV r := by
  rw [State.dumpRegs_eq]; rfl

variable {s} in
/-- A dump of `n` registers inside memory keeps the canonical form, puts `V[k]` at `base + k` for k below `n`, and
leaves every other byte as it was. -/
theorem State.dumpRegs_spec (h : s.mem.wf = true) (base n : Nat) (hn : n ≤ 16) (hb : base + n ≤ 4096) :
    (s.dumpRegs base n).mem.wf = true ∧ ∀ a, (s.dumpRegs base n).readByte a =
      if base ≤ a ∧ a < base + n then s.readV (Fin.ofNat 16 (a - base)) else s.readByte a := by
  induction n with
  | zero => exact ⟨h, fun a => by rw [if_neg (by omega)]; rfl⟩
  | succ k ih =>
    obtain ⟨hw, hr⟩ := ih (by omega) (by omega)
    refine ⟨Memory.wf_write hw (by simp only [Config.memSize]; omega), fun a => ?_⟩
    rw [State.dumpRegs, State.readByte_writeByte hw, hr]
    by_cases ha : a = base + k
    · subst ha; rw [if_pos rfl, if_pos (by omega)]; simp
    · rw [if_neg ha]
      by_cases hc : base ≤ a ∧ a < base + k
      · rw [if_pos hc, if_pos (by omega)]
      · rw [if_neg hc, if_neg (by omega)]

/-- A load changes the registers alone. -/
theorem State.loadRegs_eq (base n : Nat) : s.loadRegs base n = { s with v := (s.loadRegs base n).v } := by
  induction n with
  | zero => rfl
  | succ k ih => rw [State.loadRegs, ih]; rfl

/-- A load of `n` registers puts the byte at `base + k` in `V[k]` for k below `n`, and leaves every other register. -/
theorem State.readV_loadRegs (base n : Nat) (hn : n ≤ 16) (r : RegIdx) :
    (s.loadRegs base n).readV r = if r.val < n then s.readByte (base + r.val) else s.readV r := by
  induction n with
  | zero => simp [State.loadRegs]
  | succ k ih =>
    rw [State.loadRegs, State.readV_writeV, ih (by omega)]
    by_cases hr : r = Fin.ofNat 16 k
    · have : r.val = k := by rw [hr]; simp; omega
      rw [if_pos hr, if_pos (by omega), this]
    · have : r.val ≠ k := fun e => hr (Fin.ext (by simp [e]; omega))
      rw [if_neg hr]
      by_cases hc : r.val < k
      · rw [if_pos hc, if_pos (by omega)]
      · rw [if_neg hc, if_neg (by omega)]

variable {s} in
/-- A word stored in fetch order is read back as that word. -/
theorem State.storeWord_spec (h : s.mem.wf = true) (a : Nat) (op : Word) (ha : a ≤ 4094) :
    (s.storeWord a op).mem.wf = true ∧ (s.storeWord a op).readByte a = op.extractLsb' 8 8 ∧
      (s.storeWord a op).readByte (a + 1) = op.extractLsb' 0 8 ∧
      ∀ b, b ≠ a → b ≠ a + 1 → (s.storeWord a op).readByte b = s.readByte b := by
  have hw : (s.writeByte a (op.extractLsb' 8 8)).mem.wf = true :=
    Memory.wf_write h (by simp only [Config.memSize]; omega)
  refine ⟨Memory.wf_write hw (by simp only [Config.memSize]; omega), ?_, ?_, fun b h1 h2 => ?_⟩
  · rw [State.storeWord, State.readByte_writeByte hw, if_neg (by omega), State.readByte_writeByte h, if_pos rfl]
  · rw [State.storeWord, State.readByte_writeByte hw, if_pos rfl]
  · rw [State.storeWord, State.readByte_writeByte hw, if_neg h2, State.readByte_writeByte h, if_neg h1]

/-! ## Keys -/

theorem State.firstKey_none_iff : s.firstKey = none ↔ ∀ k, s.key k = false := by
  simp [State.firstKey, List.find?_eq_none]

theorem State.firstKey_some_iff (k : Fin 16) :
    s.firstKey = some k ↔ s.key k = true ∧ ∀ j, j < k → s.key j = false := by
  rw [State.firstKey, List.find?_eq_some_iff_getElem]
  constructor
  · rintro ⟨hk, i, hi, he, hj⟩
    refine ⟨hk, fun j hjk => ?_⟩
    have hik : i = k.val := by rw [List.getElem_finRange] at he; exact congrArg Fin.val he
    have := hj j.val (by omega)
    simpa using this
  · rintro ⟨hk, hj⟩
    exact ⟨hk, k.val, by simp, by simp, fun j h => by simp [hj ⟨j, by omega⟩ h]⟩

end Sys2Proof.Machine
end

