-- ==== Sys2Proof/Laws/Display.lean ====
section
/-! SUPPORT. What the sprite compositor and the collision detector do, pixel by pixel. -/

namespace Sys2Proof.Machine

theorem Framebuffer.pixel_in (fb : Framebuffer) {r c : Nat} (hr : r < 32) (hc : c < 64) :
    fb.pixel r c = fb[r][c] := by
  simp [Framebuffer.pixel, hr, hc]

theorem Framebuffer.pixel_out (fb : Framebuffer) {r c : Nat} (h : ¬ (r < 32 ∧ c < 64)) : fb.pixel r c = false := by
  simp [Framebuffer.pixel, h]

theorem Framebuffer.pixel_empty (r c : Nat) : Framebuffer.empty.pixel r c = false := by
  by_cases h : r < 32 ∧ c < 64
  · rw [Framebuffer.pixel_in _ h.1 h.2]; simp [Framebuffer.empty]
  · exact Framebuffer.pixel_out _ h

theorem Framebuffer.pixel_setPixel (fb : Framebuffer) {r c : Nat} (b : Bool) (h : r < 32 ∧ c < 64) (r' c' : Nat) :
    (fb.setPixel r c b).pixel r' c' = if r' = r ∧ c' = c then b else fb.pixel r' c' := by
  by_cases h' : r' < 32 ∧ c' < 64
  · rw [Framebuffer.pixel_in _ h'.1 h'.2, Framebuffer.pixel_in _ h'.1 h'.2]
    simp only [Framebuffer.setPixel, dif_pos h, Vector.getElem_set]
    by_cases hr : r = r'
    · subst hr
      by_cases hc : c = c'
      · subst hc; simp
      · simp [hc, Ne.symm hc]
    · simp [hr, Ne.symm hr]
  · rw [Framebuffer.pixel_out _ h', Framebuffer.pixel_out _ h']
    rw [if_neg (by omega)]

/-- The bits of one sprite row: on the pixel of row `r` and column `c`, among the row's first `k` columns. -/
def rowCovers (x y row : Nat) (b : Byte) (k r c : Nat) : Prop :=
  r = y + row ∧ r ≤ 31 ∧ c ≤ 63 ∧ x ≤ c ∧ c < x + k ∧ b.getLsbD (7 - (c - x)) = true

theorem drawRow_prefix (x y row : Nat) (b : Byte) (p : Framebuffer × Bool) (k : Nat) :
    (∀ r c, (((List.range k).foldl (drawPixel x y row b) p).1.pixel r c = true) ↔
      ¬ (p.1.pixel r c = true ↔ rowCovers x y row b k r c)) ∧
    ((((List.range k).foldl (drawPixel x y row b) p).2 = true) ↔
      p.2 = true ∨ ∃ r c, rowCovers x y row b k r c ∧ p.1.pixel r c = true) := by
  induction k with
  | zero =>
    have hn : ∀ r c, ¬ rowCovers x y row b 0 r c := fun r c h => by unfold rowCovers at h; omega
    simp [hn]
  | succ k ih =>
    obtain ⟨ihp, ihc⟩ := ih
    have hk : ∀ r c, rowCovers x y row b (k + 1) r c ↔ rowCovers x y row b k r c ∨
        (r = y + row ∧ c = x + k ∧ b.getLsbD (7 - k) = true ∧ x + k ≤ 63 ∧ y + row ≤ 31) := by
      intro r c
      unfold rowCovers
      constructor
      · rintro ⟨h1, h2, h3, h4, h5, h6⟩
        by_cases hc : c = x + k
        · subst hc; right; refine ⟨h1, rfl, ?_, h3, by omega⟩; simpa using h6
        · left; exact ⟨h1, h2, h3, h4, by omega, h6⟩
      · rintro (⟨h1, h2, h3, h4, h5, h6⟩ | ⟨h1, h2, h3, h4, h5⟩)
        · exact ⟨h1, h2, h3, h4, by omega, h6⟩
        · subst h2; exact ⟨h1, by omega, by omega, by omega, by omega, by simpa using h3⟩
    have hnot : ¬ rowCovers x y row b k (y + row) (x + k) := fun h => by unfold rowCovers at h; omega
    have hold : ((List.range k).foldl (drawPixel x y row b) p).1.pixel (y + row) (x + k) =
        p.1.pixel (y + row) (x + k) := by
      rw [Bool.eq_iff_iff, ihp]
      tauto
    rw [List.range_succ, List.foldl_append, List.foldl_cons, List.foldl_nil]
    generalize (List.range k).foldl (drawPixel x y row b) p = p' at ihp ihc hold
    unfold drawPixel
    by_cases hd : b.getLsbD (7 - k) = true ∧ x + k ≤ 63 ∧ y + row ≤ 31
    · rw [if_pos hd]
      have hg : y + row < 32 ∧ x + k < 64 := by omega
      by_cases hpix : p'.1.pixel (y + row) (x + k) = true
      · rw [if_pos hpix]
        constructor
        · intro r c
          rw [Framebuffer.pixel_setPixel _ _ hg, hk]
          by_cases hrc : r = y + row ∧ c = x + k
          · obtain ⟨rfl, rfl⟩ := hrc; simp [hd, ← hold, hpix]
          · rw [if_neg hrc, ihp]
            have : ¬ (r = y + row ∧ c = x + k ∧ b.getLsbD (7 - k) = true ∧ x + k ≤ 63 ∧ y + row ≤ 31) := by tauto
            simp [this]
        · simp only [true_iff]
          exact Or.inr ⟨y + row, x + k, (hk _ _).2 (Or.inr ⟨rfl, rfl, hd.1, hd.2.1, hd.2.2⟩), by rw [← hold]; exact hpix⟩
      · rw [if_neg hpix]
        constructor
        · intro r c
          rw [Framebuffer.pixel_setPixel _ _ hg, hk]
          by_cases hrc : r = y + row ∧ c = x + k
          · obtain ⟨rfl, rfl⟩ := hrc; simp [hd, ← hold, hpix]
          · rw [if_neg hrc, ihp]
            have : ¬ (r = y + row ∧ c = x + k ∧ b.getLsbD (7 - k) = true ∧ x + k ≤ 63 ∧ y + row ≤ 31) := by tauto
            simp [this]
        · simp only [ihc, hk]
          constructor
          · rintro (h | ⟨r, c, h1, h2⟩)
            · exact Or.inl h
            · exact Or.inr ⟨r, c, Or.inl h1, h2⟩
          · rintro (h | ⟨r, c, h1 | ⟨rfl, rfl, _⟩, h2⟩)
            · exact Or.inl h
            · exact Or.inr ⟨r, c, h1, h2⟩
            · exact absurd (hold.trans h2) hpix
    · rw [if_neg hd]
      have hk' : ∀ r c, rowCovers x y row b (k + 1) r c ↔ rowCovers x y row b k r c := fun r c => by
        rw [hk]; constructor
        · rintro (h | ⟨_, _, h⟩)
          · exact h
          · exact absurd h hd
        · exact Or.inl
      simp only [hk']
      exact ⟨ihp, ihc⟩

/-- One sprite row inverts exactly the pixels under its 1 bits, and meets a collision exactly when one of them was on. -/
theorem drawRow_spec (x y row : Nat) (b : Byte) (p : Framebuffer × Bool) :
    (∀ r c, ((drawRow x y row b p).1.pixel r c = true) ↔ ¬ (p.1.pixel r c = true ↔ rowCovers x y row b 8 r c)) ∧
    (((drawRow x y row b p).2 = true) ↔ p.2 = true ∨ ∃ r c, rowCovers x y row b 8 r c ∧ p.1.pixel r c = true) :=
  drawRow_prefix x y row b p 8

/-- A sprite of `n` rows inverts exactly the pixels it covers, and meets a collision exactly when one of them was on
(44_display.md R211, R213). -/
theorem drawRows_spec (mem : Memory) (base x y n : Nat) (p : Framebuffer × Bool) :
    (∀ r c, ((drawRows mem base x y n p).1.pixel r c = true) ↔
      ¬ (p.1.pixel r c = true ↔ spriteCovers mem base x y n r c)) ∧
    (((drawRows mem base x y n p).2 = true) ↔
      p.2 = true ∨ ∃ r c, spriteCovers mem base x y n r c ∧ p.1.pixel r c = true) := by
  induction n with
  | zero =>
    have hn : ∀ r c, ¬ spriteCovers mem base x y 0 r c := fun r c h => by unfold spriteCovers at h; omega
    simp [drawRows, hn]
  | succ k ih =>
    obtain ⟨ihp, ihc⟩ := ih
    obtain ⟨hp, hc⟩ := drawRow_spec x y k (mem.read (base + k)) (drawRows mem base x y k p)
    have hk : ∀ r c, spriteCovers mem base x y (k + 1) r c ↔
        spriteCovers mem base x y k r c ∨ rowCovers x y k (mem.read (base + k)) 8 r c := by
      intro r c
      unfold spriteCovers rowCovers
      by_cases hr : r = y + k
      · subst hr
        rw [show y + k - y = k by omega]
        constructor
        · rintro ⟨h1, h2, h3, h4, h5, h6, h7⟩; exact Or.inr ⟨rfl, h1, h2, h5, h6, h7⟩
        · rintro (h | ⟨_, h1, h2, h5, h6, h7⟩)
          · omega
          · exact ⟨h1, h2, by omega, by omega, h5, h6, h7⟩
      · constructor
        · rintro ⟨h1, h2, h3, h4, h5⟩; exact Or.inl ⟨h1, h2, h3, by omega, h5⟩
        · rintro (⟨h1, h2, h3, h4, h5⟩ | h)
          · exact ⟨h1, h2, h3, by omega, h5⟩
          · exact absurd h.1 hr
    have hdis : ∀ r c, rowCovers x y k (mem.read (base + k)) 8 r c → ¬ spriteCovers mem base x y k r c :=
      fun r c h h' => by unfold rowCovers at h; unfold spriteCovers at h'; omega
    refine ⟨fun r c => ?_, ?_⟩
    · rw [drawRows, hp, ihp, hk]
      have := hdis r c
      tauto
    · rw [drawRows, hc, ihc]
      simp only [hk]
      constructor
      · rintro ((h | ⟨r, c, h1, h2⟩) | ⟨r, c, h1, h2⟩)
        · exact Or.inl h
        · exact Or.inr ⟨r, c, Or.inl h1, h2⟩
        · have := (ihp r c).1 h2
          have := hdis r c h1
          exact Or.inr ⟨r, c, Or.inr h1, by tauto⟩
      · rintro (h | ⟨r, c, h1 | h1, h2⟩)
        · exact Or.inl (Or.inl h)
        · exact Or.inl (Or.inr ⟨r, c, h1, h2⟩)
        · have := hdis r c h1
          exact Or.inr ⟨r, c, h1, (ihp r c).2 (by tauto)⟩

end Sys2Proof.Machine
end

