-- ==== Sys2Proof/Laws/Exec.lean ====
section
/-! SUPPORT. Each arm of `exec` by name, so that no later proof unfolds the dispatch, and the three ways a step goes. -/

namespace Sys2Proof.Machine

variable (x y : RegIdx) (nn : Byte) (nnn : BitVec 12) (n : BitVec 4) (s : State)

theorem exec_cls : exec .cls s = execCls s := rfl
theorem exec_ret : exec .ret s = execRet s := rfl
theorem exec_jp : exec (.jp nnn) s = execJp nnn s := rfl
theorem exec_call : exec (.call nnn) s = execCall nnn s := rfl
theorem exec_seImm : exec (.seImm x nn) s = execSeImm x nn s := rfl
theorem exec_sneImm : exec (.sneImm x nn) s = execSneImm x nn s := rfl
theorem exec_seReg : exec (.seReg x y) s = execSeReg x y s := rfl
theorem exec_ldImm : exec (.ldImm x nn) s = execLdImm x nn s := rfl
theorem exec_addImm : exec (.addImm x nn) s = execAddImm x nn s := rfl
theorem exec_ldReg : exec (.ldReg x y) s = execLdReg x y s := rfl
theorem exec_or : exec (.or x y) s = execOr x y s := rfl
theorem exec_and : exec (.and x y) s = execAnd x y s := rfl
theorem exec_xor : exec (.xor x y) s = execXor x y s := rfl
theorem exec_addReg : exec (.addReg x y) s = execAddReg x y s := rfl
theorem exec_sub : exec (.sub x y) s = execSub x y s := rfl
theorem exec_shr : exec (.shr x y) s = execShr x y s := rfl
theorem exec_subn : exec (.subn x y) s = execSubn x y s := rfl
theorem exec_shl : exec (.shl x y) s = execShl x y s := rfl
theorem exec_sneReg : exec (.sneReg x y) s = execSneReg x y s := rfl
theorem exec_ldI : exec (.ldI nnn) s = execLdI nnn s := rfl
theorem exec_jpV0 : exec (.jpV0 x nnn) s = execJpV0 x nnn s := rfl
theorem exec_rnd : exec (.rnd x nn) s = execRnd x nn s := rfl
theorem exec_drw : exec (.drw x y n) s = execDrw x y n s := rfl
theorem exec_skp : exec (.skp x) s = execSkp x s := rfl
theorem exec_sknp : exec (.sknp x) s = execSknp x s := rfl
theorem exec_ldVxDt : exec (.ldVxDt x) s = execLdVxDt x s := rfl
theorem exec_ldVxK : exec (.ldVxK x) s = execLdVxK x s := rfl
theorem exec_ldDtVx : exec (.ldDtVx x) s = execLdDtVx x s := rfl
theorem exec_ldStVx : exec (.ldStVx x) s = execLdStVx x s := rfl
theorem exec_addI : exec (.addI x) s = execAddI x s := rfl
theorem exec_ldF : exec (.ldF x) s = execLdF x s := rfl
theorem exec_ldB : exec (.ldB x) s = execLdB x s := rfl
theorem exec_ldMemVx : exec (.ldMemVx x) s = execLdMemVx x s := rfl
theorem exec_ldVxMem : exec (.ldVxMem x) s = execLdVxMem x s := rfl

variable {s}

/-- A cycle at a PC beyond the last word raises the fetch fault. -/
theorem step_of_not_fetchable (h : 4094 < s.pc.toNat) : step s = .next s.raiseFetch := by
  rw [step, if_neg (by rw [State.canFetch_iff]; omega)]

/-- A cycle whose word is UNKNOWN reports it. -/
theorem step_of_unknown {r : Reject} (h : s.pc.toNat ≤ 4094) (hd : decodeWord s.fetchWord = .error r) :
    step s = .next (s.raiseUnknown s.fetchWord) := by
  rw [step, if_pos (s.canFetch_iff.2 h), hd]

end Sys2Proof.Machine
end

