-- ==== Sys2Proof/Laws/PerInstr.lean ====
section
/-! SUPPORT. A family of facts, one per instruction: the fields of an instruction's encoded word. -/

namespace Sys2Proof.Laws.EncodedFields

/-- The class, the operands and the sub-opcode of the word that encodes an instruction (30_encoding.md R91, R96). -/
def Statement (i : Instr) : Prop :=
  let op := encode i
  match i with
  | .cls => op = 0x00E0
  | .ret => op = 0x00EE
  | .jp nnn => fieldC op = 0x1 ∧ fieldNNN op = nnn
  | .call nnn => fieldC op = 0x2 ∧ fieldNNN op = nnn
  | .seImm x nn => fieldC op = 0x3 ∧ fieldX op = x ∧ fieldNN op = nn
  | .sneImm x nn => fieldC op = 0x4 ∧ fieldX op = x ∧ fieldNN op = nn
  | .seReg x y => fieldC op = 0x5 ∧ fieldX op = x ∧ fieldY op = y ∧ fieldN op = 0x0
  | .ldImm x nn => fieldC op = 0x6 ∧ fieldX op = x ∧ fieldNN op = nn
  | .addImm x nn => fieldC op = 0x7 ∧ fieldX op = x ∧ fieldNN op = nn
  | .ldReg x y => fieldC op = 0x8 ∧ fieldX op = x ∧ fieldY op = y ∧ fieldN op = 0x0
  | .or x y => fieldC op = 0x8 ∧ fieldX op = x ∧ fieldY op = y ∧ fieldN op = 0x1
  | .and x y => fieldC op = 0x8 ∧ fieldX op = x ∧ fieldY op = y ∧ fieldN op = 0x2
  | .xor x y => fieldC op = 0x8 ∧ fieldX op = x ∧ fieldY op = y ∧ fieldN op = 0x3
  | .addReg x y => fieldC op = 0x8 ∧ fieldX op = x ∧ fieldY op = y ∧ fieldN op = 0x4
  | .sub x y => fieldC op = 0x8 ∧ fieldX op = x ∧ fieldY op = y ∧ fieldN op = 0x5
  | .shr x y => fieldC op = 0x8 ∧ fieldX op = x ∧ fieldY op = y ∧ fieldN op = 0x6
  | .subn x y => fieldC op = 0x8 ∧ fieldX op = x ∧ fieldY op = y ∧ fieldN op = 0x7
  | .shl x y => fieldC op = 0x8 ∧ fieldX op = x ∧ fieldY op = y ∧ fieldN op = 0xE
  | .sneReg x y => fieldC op = 0x9 ∧ fieldX op = x ∧ fieldY op = y ∧ fieldN op = 0x0
  | .ldI nnn => fieldC op = 0xA ∧ fieldNNN op = nnn
  | .jpV0 _ nnn => fieldC op = 0xB ∧ fieldX op = topNibble nnn ∧ fieldNNN op = nnn
  | .rnd x nn => fieldC op = 0xC ∧ fieldX op = x ∧ fieldNN op = nn
  | .drw x y n => fieldC op = 0xD ∧ fieldX op = x ∧ fieldY op = y ∧ fieldN op = n
  | .skp x => fieldC op = 0xE ∧ fieldX op = x ∧ fieldNN op = 0x9E
  | .sknp x => fieldC op = 0xE ∧ fieldX op = x ∧ fieldNN op = 0xA1
  | .ldVxDt x => fieldC op = 0xF ∧ fieldX op = x ∧ fieldNN op = 0x07
  | .ldVxK x => fieldC op = 0xF ∧ fieldX op = x ∧ fieldNN op = 0x0A
  | .ldDtVx x => fieldC op = 0xF ∧ fieldX op = x ∧ fieldNN op = 0x15
  | .ldStVx x => fieldC op = 0xF ∧ fieldX op = x ∧ fieldNN op = 0x18
  | .addI x => fieldC op = 0xF ∧ fieldX op = x ∧ fieldNN op = 0x1E
  | .ldF x => fieldC op = 0xF ∧ fieldX op = x ∧ fieldNN op = 0x29
  | .ldB x => fieldC op = 0xF ∧ fieldX op = x ∧ fieldNN op = 0x33
  | .ldMemVx x => fieldC op = 0xF ∧ fieldX op = x ∧ fieldNN op = 0x55
  | .ldVxMem x => fieldC op = 0xF ∧ fieldX op = x ∧ fieldNN op = 0x65

theorem cls : Statement .cls :=
  rfl
theorem ret : Statement .ret :=
  rfl
theorem jp (nnn : BitVec 12) : Statement (.jp nnn) :=
  ⟨fieldC_encodeAddr _ _, fieldNNN_encodeAddr _ _⟩
theorem call (nnn : BitVec 12) : Statement (.call nnn) :=
  ⟨fieldC_encodeAddr _ _, fieldNNN_encodeAddr _ _⟩
theorem seImm (x : RegIdx) (nn : Byte) : Statement (.seImm x nn) :=
  ⟨fieldC_encodeXImm _ _ _, fieldX_encodeXImm _ _ _, fieldNN_encodeXImm _ _ _⟩
theorem sneImm (x : RegIdx) (nn : Byte) : Statement (.sneImm x nn) :=
  ⟨fieldC_encodeXImm _ _ _, fieldX_encodeXImm _ _ _, fieldNN_encodeXImm _ _ _⟩
theorem seReg (x : RegIdx) (y : RegIdx) : Statement (.seReg x y) :=
  ⟨fieldC_encodeXYN _ _ _ _, fieldX_encodeXYN _ _ _ _, fieldY_encodeXYN _ _ _ _, fieldN_encodeXYN _ _ _ _⟩
theorem ldImm (x : RegIdx) (nn : Byte) : Statement (.ldImm x nn) :=
  ⟨fieldC_encodeXImm _ _ _, fieldX_encodeXImm _ _ _, fieldNN_encodeXImm _ _ _⟩
theorem addImm (x : RegIdx) (nn : Byte) : Statement (.addImm x nn) :=
  ⟨fieldC_encodeXImm _ _ _, fieldX_encodeXImm _ _ _, fieldNN_encodeXImm _ _ _⟩
theorem ldReg (x : RegIdx) (y : RegIdx) : Statement (.ldReg x y) :=
  ⟨fieldC_encodeXYN _ _ _ _, fieldX_encodeXYN _ _ _ _, fieldY_encodeXYN _ _ _ _, fieldN_encodeXYN _ _ _ _⟩
theorem or (x : RegIdx) (y : RegIdx) : Statement (.or x y) :=
  ⟨fieldC_encodeXYN _ _ _ _, fieldX_encodeXYN _ _ _ _, fieldY_encodeXYN _ _ _ _, fieldN_encodeXYN _ _ _ _⟩
theorem and (x : RegIdx) (y : RegIdx) : Statement (.and x y) :=
  ⟨fieldC_encodeXYN _ _ _ _, fieldX_encodeXYN _ _ _ _, fieldY_encodeXYN _ _ _ _, fieldN_encodeXYN _ _ _ _⟩
theorem xor (x : RegIdx) (y : RegIdx) : Statement (.xor x y) :=
  ⟨fieldC_encodeXYN _ _ _ _, fieldX_encodeXYN _ _ _ _, fieldY_encodeXYN _ _ _ _, fieldN_encodeXYN _ _ _ _⟩
theorem addReg (x : RegIdx) (y : RegIdx) : Statement (.addReg x y) :=
  ⟨fieldC_encodeXYN _ _ _ _, fieldX_encodeXYN _ _ _ _, fieldY_encodeXYN _ _ _ _, fieldN_encodeXYN _ _ _ _⟩
theorem sub (x : RegIdx) (y : RegIdx) : Statement (.sub x y) :=
  ⟨fieldC_encodeXYN _ _ _ _, fieldX_encodeXYN _ _ _ _, fieldY_encodeXYN _ _ _ _, fieldN_encodeXYN _ _ _ _⟩
theorem shr (x : RegIdx) (y : RegIdx) : Statement (.shr x y) :=
  ⟨fieldC_encodeXYN _ _ _ _, fieldX_encodeXYN _ _ _ _, fieldY_encodeXYN _ _ _ _, fieldN_encodeXYN _ _ _ _⟩
theorem subn (x : RegIdx) (y : RegIdx) : Statement (.subn x y) :=
  ⟨fieldC_encodeXYN _ _ _ _, fieldX_encodeXYN _ _ _ _, fieldY_encodeXYN _ _ _ _, fieldN_encodeXYN _ _ _ _⟩
theorem shl (x : RegIdx) (y : RegIdx) : Statement (.shl x y) :=
  ⟨fieldC_encodeXYN _ _ _ _, fieldX_encodeXYN _ _ _ _, fieldY_encodeXYN _ _ _ _, fieldN_encodeXYN _ _ _ _⟩
theorem sneReg (x : RegIdx) (y : RegIdx) : Statement (.sneReg x y) :=
  ⟨fieldC_encodeXYN _ _ _ _, fieldX_encodeXYN _ _ _ _, fieldY_encodeXYN _ _ _ _, fieldN_encodeXYN _ _ _ _⟩
theorem ldI (nnn : BitVec 12) : Statement (.ldI nnn) :=
  ⟨fieldC_encodeAddr _ _, fieldNNN_encodeAddr _ _⟩
theorem jpV0 (x : RegIdx) (nnn : BitVec 12) : Statement (.jpV0 x nnn) :=
  ⟨fieldC_encodeAddr _ _, fieldX_encodeAddr _ _, fieldNNN_encodeAddr _ _⟩
theorem rnd (x : RegIdx) (nn : Byte) : Statement (.rnd x nn) :=
  ⟨fieldC_encodeXImm _ _ _, fieldX_encodeXImm _ _ _, fieldNN_encodeXImm _ _ _⟩
theorem drw (x : RegIdx) (y : RegIdx) (n : BitVec 4) : Statement (.drw x y n) :=
  ⟨fieldC_encodeXYN _ _ _ _, fieldX_encodeXYN _ _ _ _, fieldY_encodeXYN _ _ _ _, fieldN_encodeXYN _ _ _ _⟩
theorem skp (x : RegIdx) : Statement (.skp x) :=
  ⟨fieldC_encodeXImm _ _ _, fieldX_encodeXImm _ _ _, fieldNN_encodeXImm _ _ _⟩
theorem sknp (x : RegIdx) : Statement (.sknp x) :=
  ⟨fieldC_encodeXImm _ _ _, fieldX_encodeXImm _ _ _, fieldNN_encodeXImm _ _ _⟩
theorem ldVxDt (x : RegIdx) : Statement (.ldVxDt x) :=
  ⟨fieldC_encodeXImm _ _ _, fieldX_encodeXImm _ _ _, fieldNN_encodeXImm _ _ _⟩
theorem ldVxK (x : RegIdx) : Statement (.ldVxK x) :=
  ⟨fieldC_encodeXImm _ _ _, fieldX_encodeXImm _ _ _, fieldNN_encodeXImm _ _ _⟩
theorem ldDtVx (x : RegIdx) : Statement (.ldDtVx x) :=
  ⟨fieldC_encodeXImm _ _ _, fieldX_encodeXImm _ _ _, fieldNN_encodeXImm _ _ _⟩
theorem ldStVx (x : RegIdx) : Statement (.ldStVx x) :=
  ⟨fieldC_encodeXImm _ _ _, fieldX_encodeXImm _ _ _, fieldNN_encodeXImm _ _ _⟩
theorem addI (x : RegIdx) : Statement (.addI x) :=
  ⟨fieldC_encodeXImm _ _ _, fieldX_encodeXImm _ _ _, fieldNN_encodeXImm _ _ _⟩
theorem ldF (x : RegIdx) : Statement (.ldF x) :=
  ⟨fieldC_encodeXImm _ _ _, fieldX_encodeXImm _ _ _, fieldNN_encodeXImm _ _ _⟩
theorem ldB (x : RegIdx) : Statement (.ldB x) :=
  ⟨fieldC_encodeXImm _ _ _, fieldX_encodeXImm _ _ _, fieldNN_encodeXImm _ _ _⟩
theorem ldMemVx (x : RegIdx) : Statement (.ldMemVx x) :=
  ⟨fieldC_encodeXImm _ _ _, fieldX_encodeXImm _ _ _, fieldNN_encodeXImm _ _ _⟩
theorem ldVxMem (x : RegIdx) : Statement (.ldVxMem x) :=
  ⟨fieldC_encodeXImm _ _ _, fieldX_encodeXImm _ _ _, fieldNN_encodeXImm _ _ _⟩

end Sys2Proof.Laws.EncodedFields
end

