-- ==== Sys2Proof/Tests/Slice0.lean ====
section
/-! SUPPORT. Tests: the well-formedness check, the decoding of words written out from 30_encoding.md R96, single steps
with the expected results of spec/95_test_vectors.md (the vector's id is in the theorem's comment), and a witness for the
hypotheses of every statement that has some. -/

namespace Sys2Proof.Tests

open Sys2Proof.Machine

/-! ## Helpers -/

/-- The reset state with some registers set. -/
def withRegs (rs : List (RegIdx × Byte)) : State := rs.foldl (fun s p => s.writeV p.1 p.2) State.reset

/-- One `step()` with the given word stored at PC; what is read off the next state. -/
def after {α : Type} (s : State) (word : Nat) (look : State → α) : Option α :=
  match step (s.withFetchWord 16 word) with
  | .next t => some (look t)
  | .fault _ => none
  | .refused _ => none

/-- Code, kind and info of the reported fault. -/
def reported (s : State) : Option (FaultCode × FaultKind × Option Nat) := s.report.map fun r => (r.code, r.kind, r.info)

/-- The default `Q` with every quirk on. -/
def quirky : Quirks := ⟨true, true, true, true, 0⟩

/-! ## WellFormed: the one check refuses an ill-formed term -/

theorem test_wf_refuses_jpV0_with_other_x : (Instr.jpV0 4 0x300).wf = false := by decide
theorem test_wf_accepts_jpV0 : (Instr.jpV0 3 0x300).wf = true := by decide

/-! ## Decoding: one word a row, its bits from the row's encoding (R96); X = 1010, Y = 0110 unless noted -/

theorem test_decode_fixed :
    decodeWord 0b0000000011100000 = .ok .cls ∧ decodeWord 0b0000000011101110 = .ok .ret := by decide
theorem test_decode_addr :
    decodeWord 0b0001001000110100 = .ok (.jp 0x234) ∧ decodeWord 0b0010001100000000 = .ok (.call 0x300) ∧
    decodeWord 0b1010001011110000 = .ok (.ldI 0x2F0) ∧ decodeWord 0b1011001100000000 = .ok (.jpV0 3 0x300) := by decide
theorem test_decode_ximm :
    decodeWord 0b0011001100101010 = .ok (.seImm 3 0x2A) ∧ decodeWord 0b0100001100101010 = .ok (.sneImm 3 0x2A) ∧
    decodeWord 0b0110101000111100 = .ok (.ldImm 10 0x3C) ∧ decodeWord 0b0111000100100000 = .ok (.addImm 1 0x20) ∧
    decodeWord 0b1100001100001111 = .ok (.rnd 3 0x0F) := by decide
theorem test_decode_xy :
    decodeWord 0b0101101001100000 = .ok (.seReg 10 6) ∧ decodeWord 0b1001101001100000 = .ok (.sneReg 10 6) ∧
    decodeWord 0b1101000000010010 = .ok (.drw 0 1 2) := by decide
theorem test_decode_class8 :
    decodeWord 0b1000101001100000 = .ok (.ldReg 10 6) ∧ decodeWord 0b1000101001100001 = .ok (.or 10 6) ∧
    decodeWord 0b1000101001100010 = .ok (.and 10 6) ∧ decodeWord 0b1000101001100011 = .ok (.xor 10 6) ∧
    decodeWord 0b1000101001100100 = .ok (.addReg 10 6) ∧ decodeWord 0b1000101001100101 = .ok (.sub 10 6) ∧
    decodeWord 0b1000101001100110 = .ok (.shr 10 6) ∧ decodeWord 0b1000101001100111 = .ok (.subn 10 6) ∧
    decodeWord 0b1000101001101110 = .ok (.shl 10 6) := by decide
theorem test_decode_classE :
    decodeWord 0b1110001010011110 = .ok (.skp 2) ∧ decodeWord 0b1110001010100001 = .ok (.sknp 2) := by decide
theorem test_decode_classF :
    decodeWord 0b1111010100000111 = .ok (.ldVxDt 5) ∧ decodeWord 0b1111001100001010 = .ok (.ldVxK 3) ∧
    decodeWord 0b1111010100010101 = .ok (.ldDtVx 5) ∧ decodeWord 0b1111011000011000 = .ok (.ldStVx 6) ∧
    decodeWord 0b1111001000011110 = .ok (.addI 2) ∧ decodeWord 0b1111010000101001 = .ok (.ldF 4) ∧
    decodeWord 0b1111010100110011 = .ok (.ldB 5) ∧ decodeWord 0b1111000101010101 = .ok (.ldMemVx 1) ∧
    decodeWord 0b1111001001100101 = .ok (.ldVxMem 2) := by decide
/-- V-UNK-1 to V-UNK-9. -/
theorem test_decode_unknown :
    [0x0000, 0xFFFF, 0x00E1, 0x0123, 0x5121, 0x9121, 0x8128, 0x812D, 0xE29F, 0xF175, 0xF608].all
      (fun w => decide (decodeWord w = .error (.unknown w))) = true := by decide
theorem test_decode_bytes_truncated :
    decodeBytes [0x12] = .error .truncated ∧ decodeBytes [0x12, 0x34, 0x56] = .ok (.jp 0x234, [0x56]) := by decide
theorem test_decodeTableWord : decodeTableWord 16 0xF165 = some (.ldVxMem 1) ∧ decodeTableWord 16 0 = none := by decide

/-! ## Fetch, unknown words, faults (2.1) -/

/-- V-FET-1. -/
theorem test_fetch_last_word : after { State.reset with pc := 0xFFE } 0x6001 (fun t => (t.readV 0, t.pc)) =
    some (1, 0x1000) := by decide
/-- V-FET-2: nothing changes but the report. -/
theorem test_fetch_beyond : step { State.reset with pc := 0xFFF } =
    .next { State.reset with pc := 0xFFF, report := some ⟨.addressFault, .fetch, 0xFFF, none, some 0x1000⟩ } := rfl
/-- V-UNK-1. -/
theorem test_unknown : step State.reset =
    .next { State.reset with pc := 0x202, report := some ⟨.unknownOpcodeFault, .none, 0x200, some 0, none⟩ } := rfl
/-- R270. -/
theorem test_fault_codes : [FaultCode.loadFault, .addressFault, .stackFault, .unknownOpcodeFault].map FaultCode.number =
    [1, 2, 3, 4] ∧ State.reset.reportCode = 0 := by decide

/-! ## Control flow (2.2) -/

/-- V-JP-1. -/
theorem test_jp : after State.reset 0x1234 (·.pc) = some 0x234 := by decide
/-- V-CALL-1. -/
theorem test_call : after State.reset 0x2300 (fun t => (t.stack[0], t.sp.val, t.pc)) = some (0x202, 1, 0x300) := by decide
/-- V-CALL-3. -/
theorem test_call_overflow : after { State.reset with sp := 12 } 0x2300 (fun t => (t.sp.val, t.pc)) =
    some (12, 0x202) ∧ after { State.reset with sp := 12 } 0x2300 reported =
    some (some (.stackFault, .overflow, some 0x300)) := ⟨by decide, rfl⟩
/-- V-RET-1. -/
theorem test_ret : after { State.reset with pc := 0x300, sp := 1, stack := State.reset.stack.set 0 0x202 } 0x00EE
    (fun t => (t.pc, t.sp.val)) = some (0x202, 0) := by decide
/-- V-RET-2. -/
theorem test_ret_underflow : after { State.reset with pc := 0x300 } 0x00EE (fun t => (t.pc, reported t)) =
    some (0x302, some (.stackFault, .underflow, none)) := rfl
/-- V-SE-1, V-SE-2. -/
theorem test_seImm : after (withRegs [(3, 0x2A)]) 0x332A (·.pc) = some 0x204 ∧
    after (withRegs [(3, 0x2A)]) 0x332B (·.pc) = some 0x202 := by decide
/-- V-SNE-1, V-SNE-2. -/
theorem test_sneImm : after (withRegs [(3, 0x2A)]) 0x432A (·.pc) = some 0x202 ∧
    after (withRegs [(3, 0x2A)]) 0x432B (·.pc) = some 0x204 := by decide
/-- V-SER-1, V-SER-2. -/
theorem test_seReg : after (withRegs [(1, 7), (2, 7)]) 0x5120 (·.pc) = some 0x204 ∧
    after (withRegs [(1, 7), (2, 8)]) 0x5120 (·.pc) = some 0x202 := by decide
/-- V-SNER-1, V-SNER-2. -/
theorem test_sneReg : after (withRegs [(1, 7), (2, 8)]) 0x9120 (·.pc) = some 0x204 ∧
    after (withRegs [(1, 7), (2, 7)]) 0x9120 (·.pc) = some 0x202 := by decide
/-- V-JPV-3: not wrapped. -/
theorem test_jpV0 : after (withRegs [(0, 0xFF)]) 0xBFFF (·.pc) = some 0x10FE := by decide
/-- V-JPV-2. -/
theorem test_jpV0_quirk : after { withRegs [(0, 4), (3, 0x10)] with q := quirky } 0xB300 (·.pc) = some 0x310 := by decide

/-! ## Load, arithmetic, logic, shift, random (2.3 to 2.8) -/

/-- V-LD-1. -/
theorem test_ldImm : after State.reset 0x6A3C (·.readV 10) = some 0x3C := by decide
/-- V-ADDI-1. -/
theorem test_addImm : after (withRegs [(1, 0xF0), (15, 9)]) 0x7120 (fun t => (t.readV 1, t.readV 15)) =
    some (0x10, 9) := by decide
/-- V-MOV-4: the quirk does not reach the transfer. -/
theorem test_ldReg : after { withRegs [(2, 0x55), (15, 7)] with q := quirky } 0x8120 (fun t => (t.readV 1, t.readV 15)) =
    some (0x55, 7) := by decide
/-- V-OR-1, V-OR-3 with the option. -/
theorem test_or : after (withRegs [(1, 0xF0), (2, 0x0F), (15, 7)]) 0x8121 (fun t => (t.readV 1, t.readV 15)) =
    some (0xFF, 7) ∧ after { withRegs [(1, 0xF0), (15, 7)] with q := quirky } 0x8F11 (·.readV 15) = some 0 := by decide
/-- V-AND-1. -/
theorem test_and : after { withRegs [(1, 0xF3), (2, 0x3F), (15, 7)] with q := quirky } 0x8122
    (fun t => (t.readV 1, t.readV 15)) = some (0x33, 0) := by decide
/-- V-XOR-1. -/
theorem test_xor : after (withRegs [(1, 0xFF), (2, 0x0F), (15, 7)]) 0x8123 (fun t => (t.readV 1, t.readV 15)) =
    some (0xF0, 7) := by decide
/-- V-ADD-1 (T2). -/
theorem test_addReg : after (withRegs [(1, 0xFF), (2, 1)]) 0x8124 (fun t => (t.readV 1, t.readV 2, t.readV 15)) =
    some (0, 1, 1) := by decide
/-- V-ADD-8: the sum is lost. -/
theorem test_addReg_vf : after (withRegs [(1, 1), (15, 2)]) 0x8F14 (·.readV 15) = some 0 := by decide
/-- V-SUB-1 (T3). -/
theorem test_sub : after (withRegs [(1, 0x10), (2, 0x20)]) 0x8125 (fun t => (t.readV 1, t.readV 15)) =
    some (0xF0, 0) := by decide
/-- V-SUB-7, V-SUB-10. -/
theorem test_sub_vf : after (withRegs [(15, 5), (1, 3)]) 0x8F15 (·.readV 15) = some 0xFE ∧
    after (withRegs [(1, 0x30), (15, 0x20)]) 0x81F5 (fun t => (t.readV 1, t.readV 15)) = some (0x2F, 1) := by decide
/-- V-SUBN-2. -/
theorem test_subn : after (withRegs [(1, 0x33), (2, 0x11)]) 0x8127 (fun t => (t.readV 1, t.readV 15)) =
    some (0xDE, 0) := by decide
/-- V-SUBN-5, V-SUBN-7. -/
theorem test_subn_vf : after (withRegs [(15, 3), (1, 5)]) 0x8F17 (·.readV 15) = some 4 ∧
    after (withRegs [(1, 0x10), (15, 0x20)]) 0x81F7 (fun t => (t.readV 1, t.readV 15)) = some (0xF1, 1) := by decide
/-- V-SHR-1, both option values. -/
theorem test_shr : after (withRegs [(1, 5), (2, 0xF0)]) 0x8126 (fun t => (t.readV 1, t.readV 15)) = some (2, 1) ∧
    after { withRegs [(1, 5), (2, 0xF0)] with q := quirky } 0x8126 (fun t => (t.readV 1, t.readV 15, t.readV 2)) =
      some (0x78, 0, 0xF0) := by decide
/-- V-SHR-5, V-SHR-6 with the option. -/
theorem test_shr_vf : after (withRegs [(15, 0xFF), (1, 3)]) 0x8F16 (·.readV 15) = some 0 ∧
    after { withRegs [(1, 4), (15, 7)] with q := quirky } 0x81F6 (fun t => (t.readV 1, t.readV 15)) = some (3, 1) := by
  decide
/-- V-SHL-1, both option values. -/
theorem test_shl : after (withRegs [(1, 0x81), (2, 0x0F)]) 0x812E (fun t => (t.readV 1, t.readV 15)) = some (2, 1) ∧
    after { withRegs [(1, 0x81), (2, 0x0F)] with q := quirky } 0x812E (fun t => (t.readV 1, t.readV 15)) =
      some (0x1E, 0) := by decide
/-- V-SHL-5, V-SHL-6 with the option. -/
theorem test_shl_vf : after (withRegs [(15, 0xFF), (1, 3)]) 0x8F1E (·.readV 15) = some 2 ∧
    after { withRegs [(15, 0x7F), (1, 0x83)] with q := quirky } 0x8F1E (·.readV 15) = some 2 := by decide
/-- V-RND-1; the byte is consumed. -/
theorem test_rnd : after (State.reset.supplyRandom [0xB7, 0x11]) 0xC30F (fun t => (t.readV 3, t.rndQueue, t.rndDrawn)) =
    some (7, [0x11], 1) := by decide

/-! ## Index register and memory (2.9 to 2.11) -/

/-- V-LDI-1. -/
theorem test_ldI : after State.reset 0xA2F0 (·.i) = some 0x2F0 := by decide
/-- V-ADI-2: wraps at 16 bits, VF untouched. -/
theorem test_addI : after { withRegs [(2, 1), (15, 5)] with i := 0xFFFF } 0xF21E (fun t => (t.i, t.readV 15)) =
    some (0, 5) := by decide
/-- V-FNT-3, V-FNT-2. -/
theorem test_ldF : after (withRegs [(4, 0xFF)]) 0xF429 (·.i) = some 0x4B ∧
    after { withRegs [(4, 0x0A)] with q := { Quirks.default with fontBase := 0x50 } } 0xF429 (·.i) = some 0x82 := by decide
/-- V-BCD-6: the last base that succeeds. -/
theorem test_ldB : after { withRegs [(5, 0x7B)] with i := 0xFFD } 0xF533
    (fun t => (t.readByte 0xFFD, t.readByte 0xFFE, t.readByte 0xFFF)) = some (1, 2, 3) := by decide
/-- V-BCD-7: no partial write. -/
theorem test_ldB_fault : after { withRegs [(5, 0x7B)] with i := 0xFFE } 0xF533
    (fun t => (t.pc, t.readByte 0xFFE, reported t)) = some (0x202, 0, some (.addressFault, .execute, some 0x1000)) := rfl
/-- V-ST-1, both option values. -/
theorem test_ldMemVx : after { withRegs [(0, 0xAA), (1, 0xBB), (2, 0xCC)] with i := 0x300 } 0xF155
    (fun t => (t.readByte 0x300, t.readByte 0x301, t.readByte 0x302, t.i)) = some (0xAA, 0xBB, 0, 0x300) ∧
    after { withRegs [(0, 0xAA)] with i := 0xFFF, q := quirky } 0xF055 (fun t => (t.readByte 0xFFF, t.i)) =
      some (0xAA, 0x1000) := by decide
/-- V-ST-3. -/
theorem test_ldMemVx_fault : after { withRegs [(0, 0xAA), (1, 0xBB)] with i := 0xFFF, q := quirky } 0xF155
    (fun t => (t.readByte 0xFFF, t.i, reported t)) =
      some (0, 0xFFF, some (.addressFault, .execute, some 0x1000)) := rfl
/-- V-LDM-1, with the option. -/
theorem test_ldVxMem : after { withRegs [(3, 0x77)] with
      i := 0x300, mem := [(0x300, 1), (0x301, 5), (0x302, 6), (0x303, 9)], q := quirky } 0xF265
    (fun t => (t.readV 0, t.readV 1, t.readV 2, t.readV 3, t.i)) = some (1, 5, 6, 0x77, 0x303) := by decide
/-- V-LDM-5: the first font byte. -/
theorem test_ldVxMem_font : after State.reset 0xF065 (fun t => (t.readV 0, t.i)) = some (0xF0, 0) := by decide

/-! ## Display (2.12) -/

/-- V-CLS-1. -/
theorem test_cls : after { withRegs [(15, 9)] with fb := State.reset.fb.setPixel 5 7 true } 0x00E0
    (fun t => (t.pixel 5 7, t.readV 15)) = some (false, 9) := by decide
/-- V-DRW-1: six columns and the second row clipped. -/
theorem test_drw_clips : after { withRegs [(0, 62), (1, 31)] with i := 0x300, mem := [(0x300, 0xFF), (0x301, 0xFF)] }
    0xD012 (fun t => (t.pixel 31 61, t.pixel 31 62, t.pixel 31 63, t.pixel 31 0, t.pixel 0 62, t.readV 15)) =
      some (false, true, true, false, false, 0) := by decide
/-- V-DRW-4: a collision; V-DRW-11: the origin from the old VF. -/
theorem test_drw_collides : after { State.reset with
      i := 0x300, mem := [(0x300, 0xC0)], fb := (State.reset.fb.setPixel 0 1 true).setPixel 0 5 true } 0xD011
    (fun t => (t.pixel 0 0, t.pixel 0 1, t.pixel 0 5, t.readV 15)) = some (true, false, true, 1) ∧
    after { withRegs [(15, 0x46)] with i := 0x300, mem := [(0x300, 0x80)] } 0xDFF1
      (fun t => (t.pixel 6 6, t.readV 15)) = some (true, 0) := by decide
/-- V-DRW-9, V-DRW-6: the range check, and N = 0. -/
theorem test_drw_range : after { withRegs [(1, 31), (15, 7)] with i := 0xFFE } 0xD013 (fun t => (t.readV 15, reported t)) =
    some (7, some (.addressFault, .execute, some 0x1000)) ∧
    after { withRegs [(15, 7)] with i := 0xFFFF } 0xD010 (fun t => (t.readV 15, reported t)) = some (0, none) := ⟨rfl, rfl⟩

/-! ## Keys and timers (2.13, 2.14) -/

/-- The reset state with one key down. -/
def keyDown (k : Nat) (s : State) : State := s.writeKeys (s.keys.setIfInBounds k true)

/-- V-SKP-1, V-SKP-2. -/
theorem test_skp : after (keyDown 10 (withRegs [(2, 0x1A)])) 0xE29E (·.pc) = some 0x204 ∧
    after (keyDown 1 (withRegs [(2, 0x1A)])) 0xE29E (·.pc) = some 0x202 := by decide
/-- V-SKNP-1, V-SKNP-2. -/
theorem test_sknp : after (keyDown 10 (withRegs [(2, 0x1A)])) 0xE2A1 (·.pc) = some 0x202 ∧
    after (keyDown 1 (withRegs [(2, 0x1A)])) 0xE2A1 (·.pc) = some 0x204 := by decide
/-- V-KEY-1. -/
theorem test_ldVxK_waits : after (withRegs [(3, 0x55)]) 0xF30A (fun t => (t.pc, t.readV 3, t.report)) =
    some (0x200, 0x55, none) := by decide
/-- V-KEY-2. -/
theorem test_ldVxK : after (keyDown 7 (keyDown 9 State.reset)) 0xF30A (fun t => (t.readV 3, t.pc)) =
    some (7, 0x202) := by decide
/-- V-TMR-1. -/
theorem test_ldVxDt : after { State.reset with dt := 0x3C } 0xF507 (fun t => (t.readV 5, t.dt)) =
    some (0x3C, 0x3C) := by decide
/-- V-TMR-3. -/
theorem test_ldDtVx : after (withRegs [(5, 0x3C)]) 0xF515 (·.dt) = some 0x3C := by decide
/-- V-TMR-5. -/
theorem test_ldStVx : after (withRegs [(6, 2)]) 0xF618 (·.st) = some 2 := by decide

/-! ## Frames and reset (2.15, 2.16) -/

/-- What is read off a frame's result. -/
def framed {α : Type} (n : Nat) (s : State) (look : FrameResult → α) : Option α :=
  match runFrame n s with
  | .next r => some (look r)
  | .fault _ => none
  | .refused _ => none

/-- V-FRM-2: a budget of 0 still ticks, and 0 stays 0. -/
theorem test_frame_zero : framed 0 { State.reset with dt := 4 } (fun r => (r.state.dt, r.state.st, r.frameReady)) =
    some (3, 0, 1) := by decide
/-- V-FRM-3: one step, then an early stop. -/
theorem test_frame_early_stop : framed 10 ({ State.reset with dt := 5 }.withFetchWord 16 0x1FFF)
    (fun r => (r.state.pc, r.state.dt, r.faults)) = some (0xFFF, 4, []) := by decide
/-- V-FRM-8 with three cycles: one record a cycle. -/
theorem test_frame_faults : framed 3 State.reset (fun r => (r.state.pc, r.faults.map fun f => f.pc)) =
    some (0x206, [0x200, 0x202, 0x204]) := by decide
/-- P4, frame 2 cut to one cycle: the host writes the keys, then the frame runs. -/
theorem test_hostFrame : (match hostFrame ⟨State.reset.keys.set 7 true, [], 1⟩ (State.reset.withFetchWord 16 0xF00A) with
    | .next r => some (r.state.readV 0, r.state.pc)
    | .fault _ => none
    | .refused _ => none) = some (7, 0x202) := by decide
/-- V-RST-1. -/
theorem test_font : [0, 1, 4, 0x4B, 0x4F, 0x50, 0x200].map State.reset.readByte =
    [0xF0, 0x90, 0xF0, 0xF0, 0x80, 0, 0] := by decide
/-- V-RST-6. -/
theorem test_boot_refused : State.boot { Quirks.default with fontBase := 0x1B1 } defaultFont [] =
    .refused (.illegalFontBase 0x1B1) := rfl

/-! ## Witnesses: for each statement with hypotheses, inputs that meet them -/

theorem witness_EncodeThenDecode : (Instr.jpV0 15 0xFFF).wf = true := by decide

theorem witness_DecodeThenEncode : decodeWord 0xBFFF = .ok (.jpV0 15 0xFFF) := by decide

theorem witness_DecoderAgrees : ((34, 0xF065, 0xF0FF) : Nat × Word × Word) ∈ opcodeRows := by decide

theorem witness_PlacedWord : { State.reset with pc := 0xFFE }.mem.wf = true ∧
    { State.reset with pc := 0xFFE }.pc.toNat ≤ 4094 := by decide

/-- `JP 0x234` as the last word of memory. -/
def lastWordJp : State := { State.reset with pc := 0xFFE, mem := [(0xFFE, 0x12), (0xFFF, 0x34)] }

theorem witness_StepRuns : lastWordJp.pc.toNat ≤ 4094 ∧
    decodeWord (lastWordJp.readByte lastWordJp.pc.toNat ++ lastWordJp.readByte (lastWordJp.pc.toNat + 1)) =
      .ok (.jp 0x234) := by decide

theorem witness_UnknownWord : State.reset.pc.toNat ≤ 4094 ∧ ∀ i, decodeWord State.reset.fetchWord ≠ .ok i := by
  have h : decodeWord State.reset.fetchWord = .error (.unknown 0) := by decide
  exact ⟨by decide, fun i => by rw [h]; exact nofun⟩

theorem witness_FetchBeyond : 4094 < { State.reset with pc := 0xFFF }.pc.toNat := by decide

theorem witness_record_fetch : ∃ t r, step { State.reset with pc := 0xFFF } = .next t ∧ t.report = some r ∧
    r.kind = .fetch := ⟨_, _, rfl, rfl, rfl⟩
theorem witness_record_none : ∃ t r, step State.reset = .next t ∧ t.report = some r ∧ r.kind = .none :=
  ⟨_, _, rfl, rfl, rfl⟩
theorem witness_record_underflow : ∃ t r, step (State.reset.withFetchWord 16 0x00EE) = .next t ∧ t.report = some r ∧
    r.kind = .underflow := ⟨_, _, rfl, rfl, rfl⟩
theorem witness_record_overflow : ∃ t r, step ({ State.reset with sp := 12 }.withFetchWord 16 0x2300) = .next t ∧
    t.report = some r ∧ r.kind = .overflow := ⟨_, _, rfl, rfl, rfl⟩
theorem witness_record_execute : ∃ t r, step ({ State.reset with i := 0xFFE }.withFetchWord 16 0xF533) = .next t ∧
    t.report = some r ∧ r.kind = .execute := ⟨_, _, rfl, rfl, rfl⟩

theorem witness_Halted : { State.reset with pc := 0xFFF }.halted := by unfold State.halted; decide

theorem witness_Blocked : (State.reset.withFetchWord 16 0xF30A).blocked :=
  ⟨by decide, ⟨3, by decide⟩, by decide⟩

theorem witness_Return_pops : 0 < { State.reset with sp := 1 }.sp.val ∧ 0 < { State.reset with sp := 12 }.sp.val := by decide
theorem witness_Return_slot : ∃ k : Fin 12, k.val + 1 = { State.reset with sp := 12 }.sp.val := ⟨11, rfl⟩
theorem witness_Return_underflows : State.reset.sp.val = 0 := by decide

theorem witness_Call_pushes : { State.reset with sp := 11 }.sp.val < 12 ∧
    ∃ k : Fin 12, k.val = { State.reset with sp := 11 }.sp.val := ⟨by decide, 11, rfl⟩
theorem witness_Call_overflows : { State.reset with sp := 12 }.sp.val = 12 := by decide

theorem witness_CallThenReturn : ∃ t, exec (.call 0x300) { State.reset with sp := 11 } = .next t ∧
    ∃ u : State, u.sp = t.sp ∧ u.stack = t.stack := ⟨_, rfl, _, rfl, rfl⟩

theorem witness_Logic : State.reset.q.resetFlagOnLogicOps = false ∧
    { State.reset with q := quirky }.q.resetFlagOnLogicOps = true ∧ (14 : RegIdx) ≠ vf := by decide

/-- The operand cases of ADD, SUB, SUBN, SHR and SHL, and of the two draws of R214. -/
theorem witness_vf_operands : (14 : RegIdx) ≠ vf ∧ (0 : RegIdx) ≠ vf ∧ (15 : RegIdx) = vf := by decide

theorem witness_FontAddress : { State.reset with q := { Quirks.default with fontBase := 0x1B0 } }.q.legal = true := by decide

theorem witness_Bcd_stores : { State.reset with i := 0xFFD }.mem.wf = true ∧
    { State.reset with i := 0xFFD }.i.toNat ≤ 4093 := by decide
theorem witness_Bcd_faults : { State.reset with i := 0xFFE }.mem.wf = true ∧
    4093 < { State.reset with i := 0xFFE }.i.toNat := by decide

theorem witness_Bulk_moves : { State.reset with i := 0xFF0 }.mem.wf = true ∧
    { State.reset with i := 0xFF0 }.i.toNat + (15 : RegIdx).val ≤ 4095 ∧ (15 : RegIdx) ≤ 15 := by decide
theorem witness_Bulk_faults : { State.reset with i := 0xFFF }.mem.wf = true ∧
    4095 < { State.reset with i := 0xFFF }.i.toNat + (1 : RegIdx).val := by decide

theorem witness_DumpOverNext : { State.reset with i := 0xFFE, pc := 0xFFE }.mem.wf = true ∧
    { State.reset with i := 0xFFE, pc := 0xFFE }.i = { State.reset with i := 0xFFE, pc := 0xFFE }.pc ∧
    1 ≤ (1 : RegIdx).val ∧ { State.reset with i := 0xFFE, pc := 0xFFE }.i.toNat + (1 : RegIdx).val ≤ 4095 := by decide

theorem witness_Draw : ((0 : BitVec 4).toNat = 0 ∨ { State.reset with i := 0xFFFF }.i.toNat + (0 : BitVec 4).toNat ≤ 4096) ∧
    ((2 : BitVec 4).toNat = 0 ∨ { State.reset with i := 0xFFE }.i.toNat + (2 : BitVec 4).toNat ≤ 4096) := by decide
theorem witness_DrawFaults : 1 ≤ (3 : BitVec 4).toNat ∧
    4096 < { State.reset with i := 0xFFE }.i.toNat + (3 : BitVec 4).toNat := by decide
theorem witness_DrawTwice : (0 : RegIdx) ≠ vf ∧ (14 : RegIdx) ≠ vf ∧
    State.reset.i.toNat + (5 : BitVec 4).toNat ≤ 4096 ∧ ∀ r c, State.reset.pixel r c = false :=
  ⟨by decide, by decide, by decide, Framebuffer.pixel_empty⟩

theorem witness_KeySkips : (10 : Fin 16).val = ((withRegs [(2, 0x1A)]).readV 2).toNat % 16 := by decide

theorem witness_WaitForKey : (∀ k, State.reset.key k = false) ∧
    (keyDown 7 State.reset).key 7 = true ∧ ∀ j, j < (7 : Fin 16) → (keyDown 7 State.reset).key j = false := by decide

/-- A frame of one cycle whose one instruction is a jump: no instruction writes DT. -/
theorem witness_FrameDecrements : ∃ r, runFrame 1 (State.reset.withFetchWord 16 0x1200) = .next r ∧
    ∀ k v x, k < 1 → stepsFrom k (State.reset.withFetchWord 16 0x1200) = .next v → v.pc.toNat ≤ 4094 →
      decodeWord v.fetchWord ≠ .ok (.ldDtVx x) := by
  refine ⟨_, rfl, fun k v x hk hv _ => ?_⟩
  obtain rfl : k = 0 := by omega
  injection hv with hv
  subst hv
  have h : decodeWord (State.reset.withFetchWord 16 0x1200).fetchWord = .ok (.jp 0x200) := by decide
  rw [h]
  exact nofun

/-- A legal state at the bounds of the invariant, with memory listed and a full stack. -/
def boundState : State :=
  { State.reset with pc := 0x10FE, sp := 12, stack := Vector.replicate 12 0x1000, mem := [(0, 1), (0xFFF, 2)],
                     q := { quirky with fontBase := 0x1B0 } }

theorem witness_Inv : boundState.Inv := by unfold State.Inv; decide

/-- A legal state that runs an instruction. -/
theorem witness_StepKeepsInvariant : (State.reset.withFetchWord 16 0xF515).Inv ∧
    ∃ t, step (State.reset.withFetchWord 16 0xF515) = .next t :=
  ⟨by unfold State.Inv; decide, _, rfl⟩

theorem witness_Boot_refuses : 0x200 < { Quirks.default with fontBase := 0x1B1 }.fontBase + 80 := by decide
theorem witness_Boot_loadFault : Quirks.default.fontBase + 80 ≤ 0x200 ∧ 3584 < (List.replicate 3585 (0 : Byte)).length := by
  rw [List.length_replicate]; decide
theorem witness_Boot_loads : { Quirks.default with fontBase := 0x1B0 }.fontBase + 80 ≤ 0x200 ∧
    (List.replicate 3584 (0 : Byte)).length ≤ 3584 := by
  rw [List.length_replicate]; decide

theorem witness_Footprint : State.reset.mem.wf = true ∧ ∃ t, exec (.ldMemVx 3) State.reset = .next t := ⟨by decide, _, rfl⟩

theorem witness_StepTouchesDelay : ∃ t, step ((withRegs [(5, 0x3C)]).withFetchWord 16 0xF515) = .next t ∧
    t.dt ≠ ((withRegs [(5, 0x3C)]).withFetchWord 16 0xF515).dt := ⟨_, rfl, by decide⟩
theorem witness_StepTouchesSound : ∃ t, step ((withRegs [(6, 2)]).withFetchWord 16 0xF618) = .next t ∧
    t.st ≠ ((withRegs [(6, 2)]).withFetchWord 16 0xF618).st := ⟨_, rfl, by decide⟩

theorem witness_SoundTimer : ∃ t, step (State.reset.withFetchWord 16 0xF618) = .next t := ⟨_, rfl⟩

end Sys2Proof.Tests
end

section
/-! Control transfers (spec 41_control_flow.md): the frames of the updates they are made of, then O15, O17 and O18. -/

namespace Sys2Proof.Machine

variable {s : State}

/-! ## What the updates leave unchanged -/

theorem changesOnly_setPc (s : State) (w : Word) : ChangesOnly s (s.setPc w) (· = .pc) := by
  intro p hp
  cases p with
  | pc => exact absurd rfl hp
  | random => exact ⟨rfl, rfl⟩
  | _ => rfl

theorem changesOnly_skipIf (s : State) (c : Bool) : ChangesOnly s (s.skipIf c) (· = .pc) :=
  s.skipIf_eq c ▸ changesOnly_setPc s _

theorem changesOnly_popToPc (h : 0 < s.sp.val) :
    ChangesOnly s (s.popToPc h) (fun p => p = .pc ∨ p = .depth) := by
  intro p hp
  cases p with
  | pc => exact absurd (.inl rfl) hp
  | depth => exact absurd (.inr rfl) hp
  | random => exact ⟨rfl, rfl⟩
  | _ => rfl

/-- Fault entry changes nothing but the report (60_exceptions.md R276). -/
theorem changesOnly_raise (s : State) (r : FaultRecord) : ChangesOnly s (s.raise r) (· = .report) := by
  intro p hp
  cases p with
  | report => exact absurd rfl hp
  | random => exact ⟨rfl, rfl⟩
  | _ => rfl

/-! ## Jumps -/

/-- Settles O15: JP is one `setPc`, and NNN fits the 16 bits of PC. -/
theorem jumpSetsPc : Obligations.JumpSetsPc :=
  fun nnn s => ⟨s.setPc (addrWord nnn), exec_jp nnn s, addrWord_toNat nnn, changesOnly_setPc s _⟩

/-! ## Comparing skips -/

theorem State.skipIf_pc (s : State) (c : Bool) : (s.skipIf c).pc = if c then s.pc + 2 else s.pc := by
  rw [State.skipIf_eq, State.setPc_pc]

/-- An instruction that skips when two bytes are equal, compared as numbers. -/
theorem completes_of_skipIf_eq {i : Instr} {a b : Byte} (h : exec i s = .next (s.skipIf (decide (a = b)))) :
    Completes i s fun t => t.pc = (if a.toNat = b.toNat then s.pc + 2 else s.pc) ∧ ChangesOnly s t (· = .pc) := by
  refine ⟨_, h, ?_, changesOnly_skipIf s _⟩
  simp only [State.skipIf_pc, decide_eq_true_eq, BitVec.toNat_inj]

/-- An instruction that skips when two bytes differ, compared as numbers. -/
theorem completes_of_skipIf_ne {i : Instr} {a b : Byte} (h : exec i s = .next (s.skipIf (decide (a ≠ b)))) :
    Completes i s fun t => t.pc = (if a.toNat = b.toNat then s.pc else s.pc + 2) ∧ ChangesOnly s t (· = .pc) := by
  refine ⟨_, h, ?_, changesOnly_skipIf s _⟩
  simp only [State.skipIf_pc, decide_eq_true_eq, BitVec.toNat_inj, ne_eq, ite_not]

/-- Settles O17: two of the four skip on equal bytes and two on different ones. -/
theorem comparingSkipsAdvanceOnCondition : Obligations.ComparingSkipsAdvanceOnCondition :=
  fun x y nn s =>
    ⟨completes_of_skipIf_eq (exec_seImm x nn s), completes_of_skipIf_ne (exec_sneImm x nn s),
      completes_of_skipIf_eq (exec_seReg x y s), completes_of_skipIf_ne (exec_sneReg x y s)⟩

/-! ## Return -/

theorem exec_ret_of_pos (h : 0 < s.sp.val) : exec .ret s = .next (s.popToPc h) :=
  (exec_ret s).trans (dif_pos h)

theorem exec_ret_of_empty (h : s.sp.val = 0) :
    exec .ret s = .next (s.raiseExecute .ret .stackFault .underflow none) :=
  (exec_ret s).trans (dif_neg (by omega))

theorem State.popToPc_pc_eq_get (h : 0 < s.sp.val) (k : Fin 12) (hk : k.val = (s.popToPc h).sp.val) :
    (s.popToPc h).pc = s.stack.get k := by
  rw [State.popToPc_sp] at hk
  simp only [State.popToPc_pc, Vector.get_eq_getElem, hk]

/-- Settles O18, by whether the stack is empty. -/
theorem returnPopsOrUnderflows : Obligations.ReturnPopsOrUnderflows := by
  intro s
  rcases Nat.eq_zero_or_pos s.sp.val with hempty | hpos
  · refine ⟨_, exec_ret_of_empty hempty, fun hpos => absurd hempty hpos.ne', fun _ => ⟨?_, changesOnly_raise s _⟩⟩
    exact ⟨_, rfl, rfl, rfl⟩
  · refine ⟨_, exec_ret_of_pos hpos, fun _ => ⟨?_, ?_, changesOnly_popToPc hpos⟩,
      fun hempty => absurd hempty hpos.ne'⟩
    · exact Nat.sub_add_cancel hpos
    · exact State.popToPc_pc_eq_get hpos

end Sys2Proof.Machine
end

section
/-! Register arithmetic (spec 42_alu.md): the frame of a register write, how frames compose, then O21, O22 and O24. -/

namespace Sys2Proof.Machine

variable {s t u : State}

/-! ## Frames -/

theorem Part.same_trans {p : Part} (hst : p.same s t) (htu : p.same t u) : p.same s u := by
  cases p with
  | random =>
    obtain ⟨hqueue, hdrawn⟩ := hst
    obtain ⟨hqueue', hdrawn'⟩ := htu
    exact ⟨hqueue'.trans hqueue, hdrawn'.trans hdrawn⟩
  | _ => exact Eq.trans htu hst

/-- Two updates in sequence change only what the one or the other may change. -/
theorem ChangesOnly.trans {W W' : Part → Prop} (hst : ChangesOnly s t W) (htu : ChangesOnly t u W') :
    ChangesOnly s u (fun p => W p ∨ W' p) :=
  fun p hp => Part.same_trans (hst p fun h => hp (.inl h)) (htu p fun h => hp (.inr h))

theorem State.readV_writeV_of_ne {d r : RegIdx} (h : r ≠ d) (b : Byte) : (s.writeV d b).readV r = s.readV r :=
  (s.readV_writeV d b r).trans (if_neg h)

theorem changesOnly_writeV (s : State) (d : RegIdx) (b : Byte) : ChangesOnly s (s.writeV d b) (· = .reg d) := by
  intro p hp
  cases p with
  | reg r => exact State.readV_writeV_of_ne (fun h => hp (congrArg Part.reg h)) b
  | random => exact ⟨rfl, rfl⟩
  | _ => rfl

/-! ## Instructions that are one register write -/

/-- An instruction that is one register write leaves the value there and changes nothing else. -/
theorem completes_of_writeV {i : Instr} {x : RegIdx} {b : Byte} (h : exec i s = .next (s.writeV x b)) :
    Completes i s fun t => t.readV x = b ∧ ChangesOnly s t (· = .reg x) :=
  ⟨_, h, s.readV_writeV_same x b, changesOnly_writeV s x b⟩

/-- Settles O21: both instructions are one register write. -/
theorem loadAndTransferWriteOneRegister : Obligations.LoadAndTransferWriteOneRegister :=
  fun x y nn s => ⟨completes_of_writeV (exec_ldImm x nn s), completes_of_writeV (exec_ldReg x y s)⟩

/-- Settles O22: one register write, of a sum of bytes, which wraps modulo 256. -/
theorem addImmediateWraps : Obligations.AddImmediateWraps := by
  intro x nn s
  obtain ⟨t, hexec, hread, hframe⟩ := completes_of_writeV (exec_addImm x nn s)
  exact ⟨t, hexec, hread ▸ BitVec.toNat_add (s.readV x) nn, hframe⟩

/-! ## Addition with carry -/

theorem flagByte_toNat (b : Bool) : (flagByte b).toNat = if b then 1 else 0 := by
  cases b <;> rfl

theorem carryOut_toNat (a b : Byte) : (carryOut a b).toNat = if a.toNat + b.toNat > 255 then 1 else 0 := by
  simp only [carryOut, flagByte_toNat, decide_eq_true_eq]

/-- Settles O24: VF is written last, so it ends as the carry whatever X is, and the sum survives in every other
register. -/
theorem addWritesSumThenCarry : Obligations.AddWritesSumThenCarry := by
  intro x y s sum
  refine ⟨_, exec_addReg x y s, ?carry, fun hx => ?sum, (changesOnly_writeV s x _).trans (changesOnly_writeV _ vf _)⟩
  case carry =>
    rw [State.readV_writeV_same]
    exact carryOut_toNat (s.readV x) (s.readV y)
  case sum =>
    rw [State.readV_writeV_of_ne hx, State.readV_writeV_same]
    exact BitVec.toNat_add (s.readV x) (s.readV y)

end Sys2Proof.Machine
end

section
/-! Writes of the index register (spec 43_index_memory.md): the frame of `setIndex`, then O30. -/

namespace Sys2Proof.Machine

variable {s : State}

theorem changesOnly_setIndex (s : State) (w : Word) : ChangesOnly s (s.setIndex w) (· = .index) := by
  intro p hp
  cases p with
  | index => exact absurd rfl hp
  | random => exact ⟨rfl, rfl⟩
  | _ => rfl

/-- An instruction that is one write of the index register leaves the value there and changes nothing else. -/
theorem completes_of_setIndex {i : Instr} {w : Word} (h : exec i s = .next (s.setIndex w)) :
    Completes i s fun t => t.i = w ∧ ChangesOnly s t (· = .index) :=
  ⟨_, h, s.setIndex_i w, changesOnly_setIndex s w⟩

/-- The sum of a word and a zero-extended byte wraps modulo 65536 (R191). -/
theorem toNat_add_toWord (w : Word) (b : Byte) : (w + b.toWord).toNat = (w.toNat + b.toNat) % 65536 := by
  rw [BitVec.toNat_add, toWord_toNat]

/-- Settles O30: both instructions are one write of the index register, of a zero-extended address and of a wrapping
sum. -/
theorem indexLoadAndAdd : Obligations.IndexLoadAndAdd := by
  intro nnn x s
  constructor
  · obtain ⟨t, hexec, hi, hframe⟩ := completes_of_setIndex (exec_ldI nnn s)
    exact ⟨t, hexec, hi ▸ addrWord_toNat nnn, hframe⟩
  · obtain ⟨t, hexec, hi, hframe⟩ := completes_of_setIndex (exec_addI x s)
    exact ⟨t, hexec, hi ▸ toNat_add_toWord s.i (s.readV x), hframe⟩

end Sys2Proof.Machine
end

section
/-! Display (spec 44_display.md): the frame of a framebuffer replacement, then O36. -/

namespace Sys2Proof.Machine

/-- Whatever the framebuffer is replaced with, only pixels can change. -/
theorem changesOnly_fb (s : State) (fb : Framebuffer) : ChangesOnly s { s with fb := fb } Part.isPixel := by
  intro p hp
  cases p with
  | pixel r c => exact absurd ⟨r, c, rfl⟩ hp
  | random => exact ⟨rfl, rfl⟩
  | _ => rfl

/-- Settles O36: CLS replaces the framebuffer with the empty one. -/
theorem clearScreenTurnsEveryPixelOff : Obligations.ClearScreenTurnsEveryPixelOff :=
  fun s => ⟨{ s with fb := Framebuffer.empty }, exec_cls s, Framebuffer.pixel_empty, changesOnly_fb s _⟩

end Sys2Proof.Machine
end

section
/-! Keypad and timers (spec 45_keypad_timers.md): which key a key skip tests, then O41. -/

namespace Sys2Proof.Machine

variable {s : State}

/-- The key a skip tests is `V[X]` modulo 16 (R232). -/
theorem State.keyIndex_val (s : State) (x : RegIdx) : (s.keyIndex x).val = (s.readV x).toNat % 16 := by
  simp only [State.keyIndex, BitVec.val_toFin, BitVec.extractLsb'_toNat, Nat.shiftRight_zero]

/-- An instruction that is one skip moves PC by 2 exactly when its condition holds and changes nothing else. -/
theorem completes_of_skipIf {i : Instr} {c : Bool} (h : exec i s = .next (s.skipIf c)) :
    Completes i s fun t => t.pc = (if c = true then s.pc + 2 else s.pc) ∧ ChangesOnly s t (· = .pc) :=
  ⟨_, h, s.skipIf_pc c, changesOnly_skipIf s c⟩

/-- Settles O41: both instructions are one skip on the tested key, SKNP on its negation. -/
theorem keySkipsTestLowNibble : Obligations.KeySkipsTestLowNibble := by
  intro x k s hk
  obtain rfl : k = s.keyIndex x := Fin.ext (hk.trans (s.keyIndex_val x).symm)
  constructor
  · exact completes_of_skipIf (exec_skp x s)
  · obtain ⟨t, hexec, hpc, hframe⟩ := completes_of_skipIf (exec_sknp x s)
    refine ⟨t, hexec, hpc.trans ?_, hframe⟩
    cases s.key (s.keyIndex x) <;> rfl

end Sys2Proof.Machine
end

section
/-! The decoder against the encoder (spec 30_encoding.md): the fields of a word class by class, then O1 to O5. -/

namespace Sys2Proof

/-! ## A word from the fields the decoder tests -/

section
variable {w : Word} {c n : BitVec 4} {nn : Byte}

theorem encodeAddr_of_fields (hc : fieldC w = c) : encodeAddr c (fieldNNN w) = w :=
  hc ▸ encodeAddr_fields w

theorem encodeXImm_of_class (hc : fieldC w = c) : encodeXImm c (fieldX w) (fieldNN w) = w :=
  hc ▸ encodeXImm_fields w

theorem encodeXImm_of_fields (hc : fieldC w = c) (hnn : fieldNN w = nn) : encodeXImm c (fieldX w) nn = w :=
  hnn ▸ encodeXImm_of_class hc

theorem encodeXYN_of_class (hc : fieldC w = c) : encodeXYN c (fieldX w) (fieldY w) (fieldN w) = w :=
  hc ▸ encodeXYN_fields w

theorem encodeXYN_of_fields (hc : fieldC w = c) (hn : fieldN w = n) : encodeXYN c (fieldX w) (fieldY w) n = w :=
  hn ▸ encodeXYN_of_class hc

end

/-! ## Encoding, then decoding -/

/-- Settles O1, instruction by instruction: the encoded word's class and sub-opcode select the instruction's own branch
of the decoder, and its other fields are the operands. -/
theorem encodeThenDecodeGivesInstructionBack : Obligations.EncodeThenDecodeGivesInstructionBack := by
  intro i hwf
  cases i with
  | cls | ret => rfl
  | jp | call | ldI | seImm | sneImm | ldImm | addImm | rnd | seReg | sneReg | drw => simp [encode, decodeWord]
  | jpV0 x nnn =>
    have hx : x = topNibble nnn := of_decide_eq_true hwf
    simp [encode, decodeWord, hx]
  | ldReg | or | and | xor | addReg | sub | shr | subn | shl => simp [encode, decodeWord, decodeClass8]
  | skp | sknp => simp [encode, decodeWord, decodeClassE]
  | ldVxDt | ldVxK | ldDtVx | ldStVx | addI | ldF | ldB | ldMemVx | ldVxMem =>
    simp [encode, decodeWord, decodeClassF]

/-! ## Decoding, then encoding -/

/-- The decoder's answer for `w`, where it is an instruction, is a well-formed one that encodes to `w`. -/
def Faithful (w : Word) (answer : Except Reject Instr) : Prop :=
  ∀ i, answer = .ok i → i.wf = true ∧ encode i = w

theorem faithful_ok {w : Word} {i : Instr} (hwf : i.wf = true) (henc : encode i = w) : Faithful w (.ok i) :=
  fun _ h => Except.ok.inj h ▸ ⟨hwf, henc⟩

theorem faithful_error {w : Word} {r : Reject} : Faithful w (.error r) := nofun

theorem faithful_ite {w : Word} {p : Prop} [Decidable p] {a b : Except Reject Instr} (ha : p → Faithful w a)
    (hb : ¬ p → Faithful w b) : Faithful w (if p then a else b) := by
  split
  · exact ha ‹p›
  · exact hb ‹¬ p›

theorem decodeClass8_faithful {w : Word} (hc : fieldC w = 0x8) : Faithful w (decodeClass8 w) :=
  faithful_ite (fun h => faithful_ok rfl (encodeXYN_of_fields hc h)) fun _ =>
  faithful_ite (fun h => faithful_ok rfl (encodeXYN_of_fields hc h)) fun _ =>
  faithful_ite (fun h => faithful_ok rfl (encodeXYN_of_fields hc h)) fun _ =>
  faithful_ite (fun h => faithful_ok rfl (encodeXYN_of_fields hc h)) fun _ =>
  faithful_ite (fun h => faithful_ok rfl (encodeXYN_of_fields hc h)) fun _ =>
  faithful_ite (fun h => faithful_ok rfl (encodeXYN_of_fields hc h)) fun _ =>
  faithful_ite (fun h => faithful_ok rfl (encodeXYN_of_fields hc h)) fun _ =>
  faithful_ite (fun h => faithful_ok rfl (encodeXYN_of_fields hc h)) fun _ =>
  faithful_ite (fun h => faithful_ok rfl (encodeXYN_of_fields hc h)) fun _ => faithful_error

theorem decodeClassE_faithful {w : Word} (hc : fieldC w = 0xE) : Faithful w (decodeClassE w) :=
  faithful_ite (fun h => faithful_ok rfl (encodeXImm_of_fields hc h)) fun _ =>
  faithful_ite (fun h => faithful_ok rfl (encodeXImm_of_fields hc h)) fun _ => faithful_error

theorem decodeClassF_faithful {w : Word} (hc : fieldC w = 0xF) : Faithful w (decodeClassF w) :=
  faithful_ite (fun h => faithful_ok rfl (encodeXImm_of_fields hc h)) fun _ =>
  faithful_ite (fun h => faithful_ok rfl (encodeXImm_of_fields hc h)) fun _ =>
  faithful_ite (fun h => faithful_ok rfl (encodeXImm_of_fields hc h)) fun _ =>
  faithful_ite (fun h => faithful_ok rfl (encodeXImm_of_fields hc h)) fun _ =>
  faithful_ite (fun h => faithful_ok rfl (encodeXImm_of_fields hc h)) fun _ =>
  faithful_ite (fun h => faithful_ok rfl (encodeXImm_of_fields hc h)) fun _ =>
  faithful_ite (fun h => faithful_ok rfl (encodeXImm_of_fields hc h)) fun _ =>
  faithful_ite (fun h => faithful_ok rfl (encodeXImm_of_fields hc h)) fun _ =>
  faithful_ite (fun h => faithful_ok rfl (encodeXImm_of_fields hc h)) fun _ => faithful_error

/-- The class that no test before the last branch of the decoder catches. -/
theorem eq_F_of_ne {c : BitVec 4} (h0 : c ≠ 0x0) (h1 : c ≠ 0x1) (h2 : c ≠ 0x2) (h3 : c ≠ 0x3) (h4 : c ≠ 0x4)
    (h5 : c ≠ 0x5) (h6 : c ≠ 0x6) (h7 : c ≠ 0x7) (h8 : c ≠ 0x8) (h9 : c ≠ 0x9) (hA : c ≠ 0xA) (hB : c ≠ 0xB)
    (hC : c ≠ 0xC) (hD : c ≠ 0xD) (hE : c ≠ 0xE) : c = 0xF := by
  bv_omega

theorem decodeWord_faithful (w : Word) : Faithful w (decodeWord w) :=
  faithful_ite (fun _ =>
    faithful_ite (fun hcls => faithful_ok rfl hcls.symm) fun _ =>
    faithful_ite (fun hret => faithful_ok rfl hret.symm) fun _ => faithful_error) fun h0 =>
  faithful_ite (fun hc => faithful_ok rfl (encodeAddr_of_fields hc)) fun h1 =>
  faithful_ite (fun hc => faithful_ok rfl (encodeAddr_of_fields hc)) fun h2 =>
  faithful_ite (fun hc => faithful_ok rfl (encodeXImm_of_class hc)) fun h3 =>
  faithful_ite (fun hc => faithful_ok rfl (encodeXImm_of_class hc)) fun h4 =>
  faithful_ite (fun hc =>
    faithful_ite (fun hn => faithful_ok rfl (encodeXYN_of_fields hc hn)) fun _ => faithful_error) fun h5 =>
  faithful_ite (fun hc => faithful_ok rfl (encodeXImm_of_class hc)) fun h6 =>
  faithful_ite (fun hc => faithful_ok rfl (encodeXImm_of_class hc)) fun h7 =>
  faithful_ite decodeClass8_faithful fun h8 =>
  faithful_ite (fun hc =>
    faithful_ite (fun hn => faithful_ok rfl (encodeXYN_of_fields hc hn)) fun _ => faithful_error) fun h9 =>
  faithful_ite (fun hc => faithful_ok rfl (encodeAddr_of_fields hc)) fun hA =>
  faithful_ite (fun hc =>
    faithful_ok (decide_eq_true (topNibble_fieldNNN w).symm) (encodeAddr_of_fields hc)) fun hB =>
  faithful_ite (fun hc => faithful_ok rfl (encodeXImm_of_class hc)) fun hC =>
  faithful_ite (fun hc => faithful_ok rfl (encodeXYN_of_class hc)) fun hD =>
  faithful_ite decodeClassE_faithful fun hE =>
  decodeClassF_faithful (eq_F_of_ne h0 h1 h2 h3 h4 h5 h6 h7 h8 h9 hA hB hC hD hE)

/-- Settles O2: in every branch of the decoder the fields tested and the fields read are all the bits of the word. -/
theorem decodeThenEncodeGivesWordBack : Obligations.DecodeThenEncodeGivesWordBack :=
  fun w i h => decodeWord_faithful w i h

/-- A word decodes to an instruction exactly when it is that instruction's encoding. -/
theorem decodeWord_eq_ok_iff {w : Word} {i : Instr} : decodeWord w = .ok i ↔ i.wf = true ∧ encode i = w := by
  constructor
  · exact decodeThenEncodeGivesWordBack w i
  · rintro ⟨hwf, rfl⟩
    exact encodeThenDecodeGivesInstructionBack i hwf

/-! ## The rows of the opcode table -/

theorem and_F (c : BitVec 4) : c &&& 0xF = c := BitVec.and_allOnes

theorem ofFin_and_zero (x : RegIdx) : BitVec.ofFin (w := 4) x &&& BitVec.ofFin (w := 4) 0 = BitVec.ofFin (w := 4) 0 :=
  BitVec.and_zero

theorem and_FF (nn : Byte) : nn &&& 0xFF = nn := BitVec.and_allOnes

/-- The mask of the rows that fix the class alone. -/
theorem and_maskC (w : Word) : w &&& 0xF000 = encodeAddr (fieldC w) 0 :=
  calc w &&& 0xF000
    _ = encodeAddr (fieldC w) (fieldNNN w) &&& encodeAddr 0xF 0 := by rw [encodeAddr_fields]; rfl
    _ = encodeAddr (fieldC w &&& 0xF) (fieldNNN w &&& 0) := BitVec.and_append
    _ = encodeAddr (fieldC w) 0 := by rw [and_F]; exact congrArg _ BitVec.and_zero

/-- The mask of the rows that fix the class and NN. -/
theorem and_maskCNN (w : Word) : w &&& 0xF0FF = encodeXImm (fieldC w) 0 (fieldNN w) :=
  calc w &&& 0xF0FF
    _ = encodeXImm (fieldC w) (fieldX w) (fieldNN w) &&& encodeXImm 0xF 0 0xFF := by rw [encodeXImm_fields]; rfl
    _ = encodeXImm (fieldC w) 0 (fieldNN w) := by
      rw [encodeXImm, encodeXImm, BitVec.and_append, BitVec.and_append, and_F, and_FF,
        ofFin_and_zero, encodeXImm]

/-- The mask of the rows that fix the class and N. -/
theorem and_maskCN (w : Word) : w &&& 0xF00F = encodeXYN (fieldC w) 0 0 (fieldN w) :=
  calc w &&& 0xF00F
    _ = encodeXYN (fieldC w) (fieldX w) (fieldY w) (fieldN w) &&& encodeXYN 0xF 0 0 0xF := by
      rw [encodeXYN_fields]; rfl
    _ = encodeXYN (fieldC w) 0 0 (fieldN w) := by
      rw [encodeXYN, encodeXYN, BitVec.and_append, BitVec.and_append, BitVec.and_append, and_F, and_F,
        ofFin_and_zero, ofFin_and_zero, encodeXYN]

section
variable {w : Word} {c n : BitVec 4} {nn : Byte}

theorem fieldC_of_maskC (h : w &&& 0xF000 = encodeAddr c 0) : fieldC w = c := by
  rw [← fieldC_encodeAddr (fieldC w) 0, ← and_maskC, h, fieldC_encodeAddr]

theorem encodeXYN_of_mask (h : w &&& 0xF00F = encodeXYN c 0 0 n) : encodeXYN c (fieldX w) (fieldY w) n = w := by
  rw [and_maskCN] at h
  exact encodeXYN_of_fields (by rw [← fieldC_encodeXYN (fieldC w) 0 0 (fieldN w), h, fieldC_encodeXYN])
    (by rw [← fieldN_encodeXYN (fieldC w) 0 0 (fieldN w), h, fieldN_encodeXYN])

theorem encodeXImm_of_mask (h : w &&& 0xF0FF = encodeXImm c 0 nn) : encodeXImm c (fieldX w) nn = w := by
  rw [and_maskCNN] at h
  exact encodeXImm_of_fields (by rw [← fieldC_encodeXImm (fieldC w) 0 (fieldNN w), h, fieldC_encodeXImm])
    (by rw [← fieldNN_encodeXImm (fieldC w) 0 (fieldNN w), h, fieldNN_encodeXImm])

theorem eq_of_whole_mask {op : Word} (h : w &&& 0xFFFF = op) : w = op :=
  (BitVec.and_allOnes (x := w)).symm.trans h

end

/-- A word with a row's fixed bits is the encoding of an instruction of that row, built from the word's own fields. -/
theorem instr_of_row (w : Word) : ∀ r ∈ opcodeRows, w &&& r.2.2 = r.2.1 →
    ∃ i : Instr, (i.wf = true ∧ encode i = w) ∧ rowNumber i = r.1 :=
  List.forall_iff_forall_mem.1
    ⟨fun h => ⟨.cls, ⟨rfl, (eq_of_whole_mask h).symm⟩, rfl⟩,
     fun h => ⟨.ret, ⟨rfl, (eq_of_whole_mask h).symm⟩, rfl⟩,
     fun h => ⟨.jp (fieldNNN w), ⟨rfl, encodeAddr_of_fields (fieldC_of_maskC h)⟩, rfl⟩,
     fun h => ⟨.call (fieldNNN w), ⟨rfl, encodeAddr_of_fields (fieldC_of_maskC h)⟩, rfl⟩,
     fun h => ⟨.seImm (fieldX w) (fieldNN w), ⟨rfl, encodeXImm_of_class (fieldC_of_maskC h)⟩, rfl⟩,
     fun h => ⟨.sneImm (fieldX w) (fieldNN w), ⟨rfl, encodeXImm_of_class (fieldC_of_maskC h)⟩, rfl⟩,
     fun h => ⟨.seReg (fieldX w) (fieldY w), ⟨rfl, encodeXYN_of_mask h⟩, rfl⟩,
     fun h => ⟨.ldImm (fieldX w) (fieldNN w), ⟨rfl, encodeXImm_of_class (fieldC_of_maskC h)⟩, rfl⟩,
     fun h => ⟨.addImm (fieldX w) (fieldNN w), ⟨rfl, encodeXImm_of_class (fieldC_of_maskC h)⟩, rfl⟩,
     fun h => ⟨.ldReg (fieldX w) (fieldY w), ⟨rfl, encodeXYN_of_mask h⟩, rfl⟩,
     fun h => ⟨.or (fieldX w) (fieldY w), ⟨rfl, encodeXYN_of_mask h⟩, rfl⟩,
     fun h => ⟨.and (fieldX w) (fieldY w), ⟨rfl, encodeXYN_of_mask h⟩, rfl⟩,
     fun h => ⟨.xor (fieldX w) (fieldY w), ⟨rfl, encodeXYN_of_mask h⟩, rfl⟩,
     fun h => ⟨.addReg (fieldX w) (fieldY w), ⟨rfl, encodeXYN_of_mask h⟩, rfl⟩,
     fun h => ⟨.sub (fieldX w) (fieldY w), ⟨rfl, encodeXYN_of_mask h⟩, rfl⟩,
     fun h => ⟨.shr (fieldX w) (fieldY w), ⟨rfl, encodeXYN_of_mask h⟩, rfl⟩,
     fun h => ⟨.subn (fieldX w) (fieldY w), ⟨rfl, encodeXYN_of_mask h⟩, rfl⟩,
     fun h => ⟨.shl (fieldX w) (fieldY w), ⟨rfl, encodeXYN_of_mask h⟩, rfl⟩,
     fun h => ⟨.sneReg (fieldX w) (fieldY w), ⟨rfl, encodeXYN_of_mask h⟩, rfl⟩,
     fun h => ⟨.ldI (fieldNNN w), ⟨rfl, encodeAddr_of_fields (fieldC_of_maskC h)⟩, rfl⟩,
     fun h => ⟨.jpV0 (fieldX w) (fieldNNN w),
      ⟨decide_eq_true (topNibble_fieldNNN w).symm, encodeAddr_of_fields (fieldC_of_maskC h)⟩, rfl⟩,
     fun h => ⟨.rnd (fieldX w) (fieldNN w), ⟨rfl, encodeXImm_of_class (fieldC_of_maskC h)⟩, rfl⟩,
     fun h => ⟨.drw (fieldX w) (fieldY w) (fieldN w), ⟨rfl, encodeXYN_of_class (fieldC_of_maskC h)⟩, rfl⟩,
     fun h => ⟨.skp (fieldX w), ⟨rfl, encodeXImm_of_mask h⟩, rfl⟩,
     fun h => ⟨.sknp (fieldX w), ⟨rfl, encodeXImm_of_mask h⟩, rfl⟩,
     fun h => ⟨.ldVxDt (fieldX w), ⟨rfl, encodeXImm_of_mask h⟩, rfl⟩,
     fun h => ⟨.ldVxK (fieldX w), ⟨rfl, encodeXImm_of_mask h⟩, rfl⟩,
     fun h => ⟨.ldDtVx (fieldX w), ⟨rfl, encodeXImm_of_mask h⟩, rfl⟩,
     fun h => ⟨.ldStVx (fieldX w), ⟨rfl, encodeXImm_of_mask h⟩, rfl⟩,
     fun h => ⟨.addI (fieldX w), ⟨rfl, encodeXImm_of_mask h⟩, rfl⟩,
     fun h => ⟨.ldF (fieldX w), ⟨rfl, encodeXImm_of_mask h⟩, rfl⟩,
     fun h => ⟨.ldB (fieldX w), ⟨rfl, encodeXImm_of_mask h⟩, rfl⟩,
     fun h => ⟨.ldMemVx (fieldX w), ⟨rfl, encodeXImm_of_mask h⟩, rfl⟩,
     fun h => ⟨.ldVxMem (fieldX w), ⟨rfl, encodeXImm_of_mask h⟩, rfl⟩⟩

/-- A row stands in the table at its number. -/
theorem row_at_number : ∀ r ∈ opcodeRows, opcodeRows[r.1 - 1]? = some r := by decide

/-- An instruction's word has the fixed bits of the instruction's row. -/
theorem encode_and_mask {i : Instr} {r : Nat × Word × Word} (hr : opcodeRows[rowNumber i - 1]? = some r) :
    encode i &&& r.2.2 = r.2.1 := by
  cases i with
  | cls | ret => cases hr; rfl
  | jp | call | ldI | jpV0 => cases hr; simp only [encode, and_maskC, fieldC_encodeAddr]; rfl
  | seImm | sneImm | ldImm | addImm | rnd => cases hr; simp only [encode, and_maskC, fieldC_encodeXImm]; rfl
  | drw => cases hr; simp only [encode, and_maskC, fieldC_encodeXYN]; rfl
  | seReg | ldReg | or | and | xor | addReg | sub | shr | subn | shl | sneReg =>
    cases hr; simp only [encode, and_maskCN, fieldC_encodeXYN, fieldN_encodeXYN]; rfl
  | skp | sknp | ldVxDt | ldVxK | ldDtVx | ldStVx | addI | ldF | ldB | ldMemVx | ldVxMem =>
    cases hr; simp only [encode, and_maskCNN, fieldC_encodeXImm, fieldNN_encodeXImm]; rfl

/-- Settles O3: one direction builds the instruction from the word's fields, the other reads the fixed bits off the
encoding. -/
theorem decoderAgreesWithMatchAndMask : Obligations.DecoderAgreesWithMatchAndMask := by
  intro w r hr
  simp only [decodeWord_eq_ok_iff]
  constructor
  · exact instr_of_row w r hr
  · rintro ⟨i, ⟨-, rfl⟩, hn⟩
    exact encode_and_mask (hn ▸ row_at_number r hr)

/-! ## Unknown words -/

theorem fieldC_toNat (w : Word) : (fieldC w).toNat = w.toNat / 4096 := by
  have := w.isLt
  simp only [fieldC, BitVec.extractLsb'_toNat, Nat.shiftRight_eq_div_pow]
  omega

theorem fieldN_toNat (w : Word) : (fieldN w).toNat = w.toNat % 16 := by
  simp only [fieldN, BitVec.extractLsb'_toNat, Nat.shiftRight_zero]

theorem fieldNN_toNat (w : Word) : (fieldNN w).toNat = w.toNat % 256 := by
  simp only [fieldNN, BitVec.extractLsb'_toNat, Nat.shiftRight_zero]

theorem ok_ite_eq_error {p : Prop} [Decidable p] {i : Instr} {b : Except Reject Instr} {r : Reject} :
    (if p then .ok i else b) = .error r ↔ ¬ p ∧ b = .error r := by
  split <;> simp [*]

theorem decodeClass8_unknown_iff (w : Word) :
    decodeClass8 w = .error (.unknown w) ↔ 8 ≤ (fieldN w).toNat ∧ (fieldN w).toNat ≠ 0xE := by
  simp only [decodeClass8, ok_ite_eq_error, and_true]
  bv_omega

theorem decodeClassE_unknown_iff (w : Word) :
    decodeClassE w = .error (.unknown w) ↔ (fieldNN w).toNat ≠ 0x9E ∧ (fieldNN w).toNat ≠ 0xA1 := by
  simp only [decodeClassE, ok_ite_eq_error, and_true]
  bv_omega

theorem decodeClassF_unknown_iff (w : Word) :
    decodeClassF w = .error (.unknown w) ↔ (fieldNN w).toNat ≠ 0x07 ∧ (fieldNN w).toNat ≠ 0x0A ∧
      (fieldNN w).toNat ≠ 0x15 ∧ (fieldNN w).toNat ≠ 0x18 ∧ (fieldNN w).toNat ≠ 0x1E ∧ (fieldNN w).toNat ≠ 0x29 ∧
      (fieldNN w).toNat ≠ 0x33 ∧ (fieldNN w).toNat ≠ 0x55 ∧ (fieldNN w).toNat ≠ 0x65 := by
  simp only [decodeClassF, ok_ite_eq_error, and_true]
  bv_omega

/-- Settles O4, class by class: the branches that answer UNKNOWN are those of classes 0, 5, 8, 9, E and F. -/
theorem unknownWordsAreThoseListed : Obligations.UnknownWordsAreThoseListed := by
  intro w c n nn
  have hlt : c < 16 := by have := w.isLt; omega
  have hc : fieldC w = BitVec.ofNat 4 c :=
    BitVec.eq_of_toNat_eq (by rw [fieldC_toNat, BitVec.toNat_ofNat, Nat.mod_eq_of_lt hlt])
  have hn : (fieldN w).toNat = n := fieldN_toNat w
  have hnn : (fieldNN w).toNat = nn := fieldNN_toNat w
  have hN : fieldN w = 0#4 ↔ n = 0 := by bv_omega
  have hCls : w = 0x00E0#16 ↔ w.toNat = 0x00E0 := by bv_omega
  have hRet : w = 0x00EE#16 ↔ w.toNat = 0x00EE := by bv_omega
  clear_value c n nn
  interval_cases c <;>
    simp [decodeWord, hc, hN, hCls, hRet, ok_ite_eq_error, decodeClass8_unknown_iff, decodeClassE_unknown_iff,
      decodeClassF_unknown_iff, hn, hnn]

/-- Settles O5, by running the decoder on the eight words. -/
theorem sampleWordsDecode : Obligations.SampleWordsDecode := by
  unfold Obligations.SampleWordsDecode
  decide

end Sys2Proof
end

section
/-! Frames of the remaining shared operations, and control transfers (spec 41_control_flow.md): O16, O19 and O20. -/

namespace Sys2Proof.Machine

variable {s t : State}

/-! ## Frames -/

theorem ChangesOnly.mono {W W' : Part → Prop} (h : ChangesOnly s t W) (hW : ∀ p, W p → W' p) : ChangesOnly s t W' :=
  fun p hp => h p fun hw => hp (hW p hw)

theorem changesOnly_setDelay (s : State) (b : Byte) : ChangesOnly s (s.setDelay b) (· = .delay) := by
  intro p hp
  cases p with
  | delay => exact absurd rfl hp
  | random => exact ⟨rfl, rfl⟩
  | _ => rfl

theorem changesOnly_setSound (s : State) (b : Byte) : ChangesOnly s (s.setSound b) (· = .sound) := by
  intro p hp
  cases p with
  | sound => exact absurd rfl hp
  | random => exact ⟨rfl, rfl⟩
  | _ => rfl

theorem changesOnly_consumeRandom (s : State) : ChangesOnly s s.consumeRandom (· = .random) := by
  intro p hp
  cases p with
  | random => exact absurd rfl hp
  | _ => rfl

theorem State.push_stack_get (h : s.sp.val < 12) (w : Word) (k : Fin 12) :
    (s.push w h).stack.get k = if k.val = s.sp.val then w else s.stack.get k := by
  simp only [State.push_stack, Vector.get_eq_getElem, Vector.getElem_set, eq_comm]

theorem changesOnly_push (h : s.sp.val < 12) (w : Word) :
    ChangesOnly s (s.push w h) (fun p => p = .depth ∨ ∃ k, p = .slot k ∧ k.val = s.sp.val) := by
  intro p hp
  cases p with
  | depth => exact absurd (.inl rfl) hp
  | slot k => exact (State.push_stack_get h w k).trans (if_neg fun hk => hp (.inr ⟨k, rfl, hk⟩))
  | random => exact ⟨rfl, rfl⟩
  | _ => rfl

/-! ## Jump with offset -/

theorem State.jumpOffset_eq (s : State) (x : RegIdx) :
    s.jumpOffset x = s.readV (if s.q.jumpOffsetUsesVx then x else 0) :=
  (apply_ite s.readV _ x 0).symm

/-- A byte and a 12-bit address add up without wrap (R147). -/
theorem toWord_add_addrWord_toNat (b : Byte) (nnn : BitVec 12) :
    (b.toWord + addrWord nnn).toNat = b.toNat + nnn.toNat := by
  have hb := b.isLt
  have hn := nnn.isLt
  rw [BitVec.toNat_add, toWord_toNat, addrWord_toNat, Nat.mod_eq_of_lt (by omega)]

theorem toWord_add_addrWord_le (b : Byte) (nnn : BitVec 12) : (b.toWord + addrWord nnn).toNat ≤ 0x10FE := by
  have hb := b.isLt
  have hn := nnn.isLt
  rw [toWord_add_addrWord_toNat]
  omega

/-- Settles O16: one `setPc`, to a sum that 16 bits hold. -/
theorem jumpWithOffsetAddsRegister : Obligations.JumpWithOffsetAddsRegister := by
  intro x nnn s
  refine ⟨_, exec_jpV0 x nnn s, ?_, toWord_add_addrWord_le _ _, changesOnly_setPc s _⟩
  rw [← s.jumpOffset_eq x]
  exact toWord_add_addrWord_toNat _ _

/-! ## Call -/

theorem exec_call_of_room (nnn : BitVec 12) (h : s.sp.val < 12) :
    exec (.call nnn) s = .next ((s.push s.pc h).setPc (addrWord nnn)) :=
  (exec_call nnn s).trans (dif_pos h)

theorem exec_call_of_full (nnn : BitVec 12) (h : s.sp.val = 12) :
    exec (.call nnn) s = .next (s.raiseExecute (.call nnn) .stackFault .overflow (some nnn.toNat)) :=
  (exec_call nnn s).trans (dif_neg (by omega))

theorem changesOnly_call (h : s.sp.val < 12) (w : Word) : ChangesOnly s ((s.push s.pc h).setPc w)
    (fun p => p = .pc ∨ p = .depth ∨ ∃ k, p = .slot k ∧ k.val = s.sp.val) :=
  ((changesOnly_push h s.pc).trans (changesOnly_setPc _ w)).mono fun _ => Or.symm

/-- Settles O19, by whether the stack is full. -/
theorem callPushesAndJumpsOrOverflows : Obligations.CallPushesAndJumpsOrOverflows := by
  intro nnn s
  rcases Nat.lt_or_ge s.sp.val 12 with hroom | hge
  · refine ⟨_, exec_call_of_room nnn hroom,
      fun _ => ⟨addrWord_toNat nnn, rfl, fun k hk => ?_, changesOnly_call hroom _⟩, fun hfull => absurd hfull hroom.ne⟩
    exact (State.push_stack_get hroom s.pc k).trans (if_pos hk)
  · have hfull : s.sp.val = 12 := by omega
    exact ⟨_, exec_call_of_full nnn hfull, fun hroom => absurd hfull hroom.ne, fun _ => ⟨changesOnly_raise s _, rfl⟩⟩

/-- Settles O20: the entry RET pops is the one CALL pushed, and CALL wrote no other. -/
theorem callThenReturnRestoresPc : Obligations.CallThenReturnRestoresPc := by
  intro nnn s hroom
  refine ⟨_, exec_call_of_room nnn hroom, fun u hsp hstack => ?_⟩
  have hsp' : u.sp.val = s.sp.val + 1 := congrArg Fin.val hsp
  have hget (k : Fin 12) : u.stack.get k = if k.val = s.sp.val then s.pc else s.stack.get k := by
    rw [hstack]
    exact State.push_stack_get hroom s.pc k
  have hpos : 0 < u.sp.val := by omega
  have hdepth : (u.popToPc hpos).sp.val = s.sp.val := by
    rw [State.popToPc_sp]
    simp only [hsp', Nat.add_sub_cancel]
  refine ⟨_, exec_ret_of_pos hpos, ?_, Fin.ext hdepth, fun k hk => ?_⟩
  · rw [State.popToPc_pc_eq_get hpos ⟨s.sp.val, hroom⟩ hdepth.symm, hget, if_pos rfl]
  · exact (hget k).trans (if_neg hk.ne)

end Sys2Proof.Machine
end

section
/-! Logic, subtraction, shifts and the random byte (spec 42_alu.md): O23 and O25 to O29. -/

namespace Sys2Proof.Machine

variable {s : State} {i : Instr} {x y : RegIdx}

/-! ## Logic operations -/

/-- An instruction that writes `V[x]` and then resets the flag under the option has the effect of R164 to R166. -/
theorem completes_of_logicFlag {v : Byte} (h : exec i s = .next (s.writeV x v).logicFlag) :
    Completes i s fun t => LogicEffect s t x v := by
  refine ⟨_, h, fun hoff => ?off, fun hon => ?on⟩
  case off =>
    rw [State.logicFlag_eq, State.writeV_q, if_neg (by simp [hoff])]
    exact ⟨s.readV_writeV_same x v, changesOnly_writeV s x v⟩
  case on =>
    rw [State.logicFlag_eq, State.writeV_q, if_pos hon]
    refine ⟨State.readV_writeV_same _ vf 0, fun hx => ?_, (changesOnly_writeV s x v).trans (changesOnly_writeV _ vf 0)⟩
    rw [State.readV_writeV_of_ne hx, State.readV_writeV_same]

/-- Settles O23: the three differ in the result alone. -/
theorem logicOperationsAndFlagReset : Obligations.LogicOperationsAndFlagReset :=
  fun x y s => ⟨completes_of_logicFlag (exec_or x y s), completes_of_logicFlag (exec_and x y s),
    completes_of_logicFlag (exec_xor x y s)⟩

/-! ## A flag, then a result -/

theorem changesOnly_refl (s : State) (W : Part → Prop) : ChangesOnly s s W := by
  intro p _
  cases p with
  | random => exact ⟨rfl, rfl⟩
  | _ => rfl

theorem changesOnly_flag_then_result {u : State} (hu : ChangesOnly s u (· = .reg x)) (f d : Byte) :
    ChangesOnly s ((u.writeV vf f).writeV x d) (fun p => p = .reg x ∨ p = .reg vf) := by
  refine ((hu.trans (changesOnly_writeV u vf f)).trans (changesOnly_writeV _ x d)).mono ?_
  rintro p ((hp | hp) | hp)
  · exact .inl hp
  · exact .inr hp
  · exact .inl hp

/-- An instruction that from `u` writes VF and then `V[x]`: the flag survives where `x` is another register. -/
theorem completes_of_flag_then_result {u : State} {f d : Byte} (hu : ChangesOnly s u (· = .reg x))
    (h : exec i s = .next ((u.writeV vf f).writeV x d)) :
    Completes i s fun t => (x ≠ vf → t.readV vf = f) ∧ t.readV x = d ∧
      ChangesOnly s t (fun p => p = .reg x ∨ p = .reg vf) := by
  refine ⟨_, h, fun hx => ?_, State.readV_writeV_same _ x d, changesOnly_flag_then_result hu f d⟩
  rw [State.readV_writeV_of_ne hx.symm, State.readV_writeV_same]

/-! ## Subtraction -/

theorem noBorrow_toNat (a b : Byte) : (noBorrow a b).toNat = if a.toNat ≥ b.toNat then 1 else 0 := by
  simp only [noBorrow, flagByte_toNat, decide_eq_true_eq]

theorem byte_sub_toNat (a b : Byte) : (a - b).toNat = (a.toNat + 256 - b.toNat) % 256 := by
  have hb := b.isLt
  rw [BitVec.toNat_sub, Nat.add_comm, Nat.add_sub_assoc (by omega)]

theorem readV_after_flag (s : State) (f : Byte) (r : RegIdx) :
    (s.writeV vf f).readV r = if r = vf then f else s.readV r :=
  s.readV_writeV vf f r

/-- A difference formed after VF has been written: an operand that is VF is the flag. -/
theorem difference_after_flag_toNat (s : State) (f : Byte) (m n : RegIdx) :
    ((s.writeV vf f).readV m - (s.writeV vf f).readV n).toNat =
      ((if m = vf then f.toNat else (s.readV m).toNat) + 256 -
        if n = vf then f.toNat else (s.readV n).toNat) % 256 := by
  rw [byte_sub_toNat, readV_after_flag, readV_after_flag, apply_ite BitVec.toNat, apply_ite BitVec.toNat]

/-- Settles O25: the five cases are whether each operand is VF. -/
theorem subtractWritesFlagThenDifference : Obligations.SubtractWritesFlagThenDifference := by
  intro x y s a b f
  have hf : (noBorrow (s.readV x) (s.readV y)).toNat = f := noBorrow_toNat _ _
  obtain ⟨t, hexec, hflag, hres, hframe⟩ := completes_of_flag_then_result (changesOnly_refl s _) (exec_sub x y s)
  have hdiff := (congrArg BitVec.toNat hres).trans (difference_after_flag_toNat s _ x y)
  rw [hf] at hdiff
  exact ⟨t, hexec, fun hx => (congrArg _ (hflag hx)).trans hf,
    fun hx hy => by rw [hdiff, if_neg hx, if_neg hy],
    fun hx hy => by rw [← hx, hdiff, if_pos hx, if_neg hy],
    fun hx hy => by rw [hdiff, if_neg hx, if_pos hy],
    fun hx hy => by rw [← hx, hdiff, if_pos hx, if_pos hy, Nat.add_sub_cancel_left], hframe⟩

/-- Settles O26, as O25 with the operands exchanged. -/
theorem reverseSubtractWritesFlagThenDifference : Obligations.ReverseSubtractWritesFlagThenDifference := by
  intro x y s a b f
  have hf : (noBorrow (s.readV y) (s.readV x)).toNat = f := noBorrow_toNat _ _
  obtain ⟨t, hexec, hflag, hres, hframe⟩ := completes_of_flag_then_result (changesOnly_refl s _) (exec_subn x y s)
  have hdiff := (congrArg BitVec.toNat hres).trans (difference_after_flag_toNat s _ y x)
  rw [hf] at hdiff
  exact ⟨t, hexec, fun hx => (congrArg _ (hflag hx)).trans hf,
    fun hx hy => by rw [hdiff, if_neg hx, if_neg hy],
    fun hx hy => by rw [← hx, hdiff, if_pos hx, if_neg hy],
    fun hx hy => by rw [hdiff, if_neg hx, if_pos hy],
    fun hx hy => by rw [← hx, hdiff, if_pos hx, if_pos hy, Nat.add_sub_cancel_left], hframe⟩

/-! ## Shifts -/

theorem lowBit_toNat (a : Byte) : (lowBit a).toNat = a.toNat % 2 := by
  rw [lowBit, BitVec.toNat_and]
  exact Nat.and_one_is_mod a.toNat

theorem highBit_toNat (a : Byte) : (highBit a).toNat = a.toNat / 128 := by
  have ha := a.isLt
  rw [highBit, BitVec.toNat_and, BitVec.toNat_ushiftRight, Nat.shiftRight_eq_div_pow]
  exact (Nat.and_one_is_mod _).trans (by omega)

theorem shiftRight_one_toNat (a : Byte) : (a >>> 1).toNat = a.toNat / 2 := by
  rw [BitVec.toNat_ushiftRight, Nat.shiftRight_eq_div_pow, pow_one]

theorem shiftLeft_one_toNat (a : Byte) : (a <<< 1).toNat = a.toNat * 2 % 256 := by
  rw [BitVec.toNat_shiftLeft, Nat.shiftLeft_eq, pow_one]

theorem State.shiftSource_readV (s : State) (x y : RegIdx) :
    (s.shiftSource x y).readV x = s.readV (if s.q.shiftUsesY then y else x) := by
  rw [State.shiftSource_eq, State.readV_writeV_same, apply_ite s.readV]

theorem changesOnly_shiftSource (s : State) (x y : RegIdx) : ChangesOnly s (s.shiftSource x y) (· = .reg x) :=
  s.shiftSource_eq x y ▸ changesOnly_writeV s x _

/-- Settles O27: where `V[X]` is VF the bit shifted out is itself shifted out. -/
theorem shiftRightHalvesSource : Obligations.ShiftRightHalvesSource := by
  intro x y s v
  obtain ⟨t, hexec, hflag, hres, hframe⟩ :=
    completes_of_flag_then_result (changesOnly_shiftSource s x y) (exec_shr x y s)
  rw [readV_after_flag, State.shiftSource_readV] at hres
  rw [State.shiftSource_readV] at hflag
  refine ⟨t, hexec, fun hx => ⟨?_, ?_⟩, fun hx => ?_, hframe⟩
  · rw [hres, if_neg hx, shiftRight_one_toNat]
  · rw [hflag hx, lowBit_toNat]
  · rw [← hx, hres, if_pos hx, shiftRight_one_toNat, lowBit_toNat]
    omega

/-- Settles O28: where `V[X]` is VF the bit shifted out is itself doubled. -/
theorem shiftLeftDoublesSource : Obligations.ShiftLeftDoublesSource := by
  intro x y s v
  obtain ⟨t, hexec, hflag, hres, hframe⟩ :=
    completes_of_flag_then_result (changesOnly_shiftSource s x y) (exec_shl x y s)
  rw [readV_after_flag, State.shiftSource_readV] at hres
  rw [State.shiftSource_readV] at hflag
  refine ⟨t, hexec, fun hx => ⟨?_, ?_⟩, fun hx => ?_, hframe⟩
  · rw [hres, if_neg hx, shiftLeft_one_toNat]
  · rw [hflag hx, highBit_toNat]
  · have hv : v < 256 := (s.readV (if s.q.shiftUsesY then y else x)).isLt
    rw [← hx, hres, if_pos hx, shiftLeft_one_toNat, highBit_toNat]
    omega

/-! ## The random byte -/

theorem changesOnly_consume_then_write (s : State) (x : RegIdx) (b : Byte) :
    ChangesOnly s (s.consumeRandom.writeV x b) (fun p => p = .reg x ∨ p = .random) :=
  ((changesOnly_consumeRandom s).trans (changesOnly_writeV _ x b)).mono fun _ => Or.symm

/-- Settles O29: the byte masked is the head of the host's queue where there is one. -/
theorem randomizeMasksOneFreshByte : Obligations.RandomizeMasksOneFreshByte := by
  intro x nn s
  refine ⟨_, exec_rnd x nn s, ⟨s.nextRandom, State.readV_writeV_same _ x _, ?_⟩, rfl,
    changesOnly_consume_then_write s x _⟩
  rw [State.writeV_rndQueue, State.consumeRandom_rndQueue, State.nextRandom]
  cases s.rndQueue with
  | nil => exact .inr ⟨rfl, rfl⟩
  | cons b rest => exact .inl rfl

end Sys2Proof.Machine
end

section
/-! Index register and memory (spec 43_index_memory.md, 20_memory.md): O6 and O31 to O35. -/

namespace Sys2Proof.Machine

variable {s t : State} {x : RegIdx}

/-! ## Font addresses -/

theorem Quirks.legal_iff (q : Quirks) : q.legal = true ↔ q.fontBase + 80 ≤ 0x200 :=
  decide_eq_true_iff

theorem lowNibble_toNat (b : Byte) : (b &&& 0xF).toNat = b.toNat % 16 :=
  (BitVec.toNat_and b 0xF).trans (Nat.and_two_pow_sub_one_eq_mod b.toNat 4)

/-- The glyph address, for a font base that memory below the program holds (R192). -/
theorem State.glyphAddress_toNat (h : s.q.fontBase + 80 ≤ 0x200) (x : RegIdx) :
    (s.glyphAddress x).toNat = (s.readV x).toNat % 16 * 5 + s.q.fontBase := by
  rw [State.glyphAddress, BitVec.toNat_ofNat, lowNibble_toNat]
  exact Nat.mod_eq_of_lt (by omega)

/-- Settles O31: one write of the index register, of an address that a legal font base keeps below 0x1FC. -/
theorem fontAddressOfLowNibble : Obligations.FontAddressOfLowNibble := by
  intro x s hlegal
  have hbase : s.q.fontBase + 80 ≤ 0x200 := (Quirks.legal_iff s.q).1 hlegal
  obtain ⟨t, hexec, hi, hframe⟩ := completes_of_setIndex (exec_ldF x s)
  have haddr : t.i.toNat = (s.readV x).toNat % 16 * 5 + s.q.fontBase := hi ▸ State.glyphAddress_toNat hbase x
  exact ⟨t, hexec, haddr, by omega, hframe⟩

/-! ## Changes of memory alone -/

/-- Where only memory changes, only the bytes that read otherwise change. -/
theorem changesOnly_of_mem {W : Part → Prop} (ht : t = { s with mem := t.mem })
    (hbyte : ∀ a, ¬ W (.byte a) → t.readByte a = s.readByte a) : ChangesOnly s t W := by
  intro p hp
  cases p with
  | byte a => exact hbyte a hp
  | random => rw [ht]; exact ⟨rfl, rfl⟩
  | _ => rw [ht]; rfl

theorem addressFaulted_raiseAddress (i : Instr) (s : State) : AddressFaulted i s (s.raiseAddress i) :=
  ⟨rfl, changesOnly_raise s _⟩

/-! ## Placing a word -/

theorem State.fetchAddress_of_fetchable (h : s.pc.toNat ≤ 4094) : s.fetchAddress = s.pc.toNat :=
  if_pos (s.canFetch_iff.2 h)

theorem tableWord_toNat (w : Word) : tableWord 16 w.toNat = w := by
  rw [tableWord, Nat.mod_eq_of_lt w.isLt, BitVec.ofNat_toNat, BitVec.setWidth_eq]

theorem State.withFetchWord_of_fetchable (h : s.pc.toNat ≤ 4094) (w : Word) :
    s.withFetchWord 16 w.toNat = s.storeWord s.pc.toNat w := by
  rw [State.withFetchWord, State.fetchAddress_of_fetchable h, tableWord_toNat, BitVec.ofNat_toNat, BitVec.setWidth_eq]
  rfl

/-- Settles O6: the word's two bytes are stored at PC, in the order the fetch reads them. -/
theorem placedWordIsFetched : Obligations.PlacedWordIsFetched := by
  intro s w hwf hpc
  obtain ⟨-, hhigh, hlow, hother⟩ := State.storeWord_spec hwf s.pc.toNat w hpc
  rw [State.withFetchWord_of_fetchable hpc]
  constructor
  · exact (congrArg₂ wordOfBytes hhigh hlow).trans (wordOfBytes_split w)
  · refine changesOnly_of_mem rfl fun a ha => hother a (fun h => ha ?_) (fun h => ha ?_)
    · exact ⟨a, rfl, by omega, by omega⟩
    · exact ⟨a, rfl, by omega, by omega⟩

/-! ## BCD store -/

/-- The bytes LD B stores, from `base` up. -/
def State.storeDigits (s : State) (base : Nat) (d : Byte × Byte × Byte) : State :=
  ((s.writeByte (base + 0) d.1).writeByte (base + 1) d.2.1).writeByte (base + 2) d.2.2

theorem exec_ldB_of_fits (h : s.i.toNat ≤ 4093) :
    exec (.ldB x) s = .next (s.storeDigits s.i.toNat (bcdDigits (s.readV x))) :=
  (exec_ldB x s).trans (if_pos ((transferFits_iff _ 3).2 (by omega)))

theorem exec_ldB_of_not_fits (h : 4093 < s.i.toNat) : exec (.ldB x) s = .next (s.raiseAddress (.ldB x)) :=
  (exec_ldB x s).trans (if_neg (by rw [transferFits_iff]; omega))

theorem State.storeDigits_spec (hwf : s.mem.wf = true) {base : Nat} (hb : base ≤ 4093) (d : Byte × Byte × Byte) :
    (s.storeDigits base d).mem.wf = true ∧ ∀ a, (s.storeDigits base d).readByte a =
      if a = base + 2 then d.2.2 else if a = base + 1 then d.2.1 else if a = base then d.1 else s.readByte a := by
  have hwf0 : (s.writeByte (base + 0) d.1).mem.wf = true := Memory.wf_write hwf (by simp only [Config.memSize]; omega)
  have hwf1 : ((s.writeByte (base + 0) d.1).writeByte (base + 1) d.2.1).mem.wf = true :=
    Memory.wf_write hwf0 (by simp only [Config.memSize]; omega)
  refine ⟨Memory.wf_write hwf1 (by simp only [Config.memSize]; omega), fun a => ?_⟩
  rw [State.storeDigits, State.readByte_writeByte hwf1, State.readByte_writeByte hwf0, State.readByte_writeByte hwf]
  rfl

theorem changesOnly_storeDigits (hwf : s.mem.wf = true) {base : Nat} (hb : base ≤ 4093) (d : Byte × Byte × Byte) :
    ChangesOnly s (s.storeDigits base d) (·.isByteIn base 3) := by
  refine changesOnly_of_mem rfl fun a ha => ?_
  have hout : ¬ (base ≤ a ∧ a < base + 3) := fun h => ha ⟨a, rfl, h⟩
  rw [(State.storeDigits_spec hwf hb d).2, if_neg (by omega), if_neg (by omega), if_neg (by omega)]

theorem bcdDigits_toNat (b : Byte) : (bcdDigits b).1.toNat = b.toNat / 100 ∧
    (bcdDigits b).2.1.toNat = b.toNat / 10 % 10 ∧ (bcdDigits b).2.2.toNat = b.toNat % 10 := by
  have hb := b.isLt
  simp only [bcdDigits, BitVec.toNat_ofNat]
  omega

/-- Settles O32, by whether the three bytes exist. -/
theorem bcdStoreWritesThreeDigits : Obligations.BcdStoreWritesThreeDigits := by
  intro x s hwf
  rcases Nat.lt_or_ge 4093 s.i.toNat with hout | hin
  · exact ⟨_, exec_ldB_of_not_fits hout, fun hin => absurd hin (by omega), fun _ => addressFaulted_raiseAddress _ s⟩
  · obtain ⟨hhundreds, htens, hunits⟩ := bcdDigits_toNat (s.readV x)
    obtain ⟨-, hread⟩ := State.storeDigits_spec hwf hin (bcdDigits (s.readV x))
    refine ⟨_, exec_ldB_of_fits hin, fun _ => ⟨?_, ?_, ?_, changesOnly_storeDigits hwf hin _⟩,
      fun hout => absurd hin (by omega)⟩
    · rw [hread, if_neg (by omega), if_neg (by omega), if_pos rfl, hhundreds]
    · rw [hread, if_neg (by omega), if_pos rfl, htens]
    · rw [hread, if_pos rfl, hunits]

/-! ## Advancing the index register after a transfer -/

theorem State.advanceIndex_toNat (h : s.i.toNat + x.val ≤ 4095) : (s.advanceIndex x).i.toNat =
    if s.q.incrementIndexOnBulkTransfer then s.i.toNat + x.val + 1 else s.i.toNat := by
  rw [State.advanceIndex_eq, State.setIndex_i, apply_ite BitVec.toNat, BitVec.toNat_add, BitVec.toNat_ofNat,
    Nat.mod_eq_of_lt (a := x.val + 1) (by omega), Nat.mod_eq_of_lt (by omega), Nat.add_assoc]

theorem changesOnly_advanceIndex (s : State) (x : RegIdx) : ChangesOnly s (s.advanceIndex x)
    (fun p => s.q.incrementIndexOnBulkTransfer = true ∧ p = .index) := by
  unfold State.advanceIndex
  split
  case isTrue hon => exact (changesOnly_setIndex s _).mono fun _ hp => ⟨hon, hp⟩
  case isFalse => exact changesOnly_refl s _

theorem State.readByte_advanceIndex (s : State) (x : RegIdx) (a : Nat) :
    (s.advanceIndex x).readByte a = s.readByte a := by
  rw [State.advanceIndex_eq, State.readByte_setIndex]

theorem State.readV_advanceIndex (s : State) (x r : RegIdx) : (s.advanceIndex x).readV r = s.readV r := by
  rw [State.advanceIndex_eq, State.readV_setIndex]

/-! ## Register dump -/

theorem bulk_fits_iff (s : State) (x : RegIdx) :
    transferFits s.i.toNat (bulkCount x) = true ↔ s.i.toNat + x.val ≤ 4095 := by
  rw [transferFits_iff, bulkCount]
  omega

theorem exec_ldMemVx_of_fits (h : s.i.toNat + x.val ≤ 4095) :
    exec (.ldMemVx x) s = .next ((s.dumpRegs s.i.toNat (x.val + 1)).advanceIndex x) :=
  (exec_ldMemVx x s).trans (if_pos ((bulk_fits_iff s x).2 h))

theorem exec_ldMemVx_of_not_fits (h : 4095 < s.i.toNat + x.val) :
    exec (.ldMemVx x) s = .next (s.raiseAddress (.ldMemVx x)) :=
  (exec_ldMemVx x s).trans (if_neg (by rw [bulk_fits_iff]; omega))

theorem State.dumpRegs_i (s : State) (base n : Nat) : (s.dumpRegs base n).i = s.i := by
  rw [State.dumpRegs_eq]

theorem State.dumpRegs_q (s : State) (base n : Nat) : (s.dumpRegs base n).q = s.q := by
  rw [State.dumpRegs_eq]

theorem changesOnly_dumpRegs (hwf : s.mem.wf = true) (base n : Nat) (hn : n ≤ 16) (hb : base + n ≤ 4096) :
    ChangesOnly s (s.dumpRegs base n) (·.isByteIn base n) := by
  refine changesOnly_of_mem (s.dumpRegs_eq base n) fun a ha => ?_
  exact ((State.dumpRegs_spec hwf base n hn hb).2 a).trans (if_neg fun h => ha ⟨a, rfl, h⟩)

theorem changesOnly_dump (hwf : s.mem.wf = true) (h : s.i.toNat + x.val ≤ 4095) :
    ChangesOnly s ((s.dumpRegs s.i.toNat (x.val + 1)).advanceIndex x) (fun p =>
      p.isByteIn s.i.toNat (x.val + 1) ∨ (s.q.incrementIndexOnBulkTransfer = true ∧ p = .index)) := by
  have hadvance := changesOnly_advanceIndex (s.dumpRegs s.i.toNat (x.val + 1)) x
  rw [State.dumpRegs_q] at hadvance
  exact (changesOnly_dumpRegs hwf _ _ (by omega) (by omega)).trans hadvance

/-- Settles O33, by whether the X + 1 bytes exist. -/
theorem registerDumpCopiesToMemory : Obligations.RegisterDumpCopiesToMemory := by
  intro x s hwf
  rcases Nat.lt_or_ge 4095 (s.i.toNat + x.val) with hout | hin
  · exact ⟨_, exec_ldMemVx_of_not_fits hout, fun hin => absurd hin (by omega),
      fun _ => addressFaulted_raiseAddress _ s⟩
  · refine ⟨_, exec_ldMemVx_of_fits hin, fun _ => ⟨fun k hk => ?byte, ?index, ?frame⟩,
      fun hout => absurd hin (by omega)⟩
    case byte =>
      have hkx : k.val ≤ x.val := hk
      obtain ⟨-, hread⟩ := State.dumpRegs_spec hwf s.i.toNat (x.val + 1) (by omega) (by omega)
      rw [State.readByte_advanceIndex, hread, if_pos (by omega), Nat.add_sub_cancel_left]
      exact congrArg s.readV (Fin.ofNat_val_eq_self k)
    case index =>
      rw [State.advanceIndex_toNat (by rw [State.dumpRegs_i]; exact hin), State.dumpRegs_i, State.dumpRegs_q]
    case frame => exact (changesOnly_dump hwf hin).mono fun _ hp => hp.imp_right And.right

/-- Settles O35: the dump leaves PC at the bytes it has just written. -/
theorem dumpOverNextInstructionIsFetched : Obligations.DumpOverNextInstructionIsFetched := by
  intro x s hwf hi hx hfits
  obtain ⟨t, hexec, hdump, -⟩ := registerDumpCopiesToMemory x s hwf
  obtain ⟨hread, -, hframe⟩ := hdump hfits
  have hpc : t.pc = s.i := (hframe .pc (by rintro (⟨a, ha, -⟩ | h) <;> contradiction)).trans hi.symm
  refine ⟨t, hexec, ?_⟩
  simp only [State.fetchWord, hpc]
  exact congrArg₂ wordOfBytes (hread 0 (Fin.zero_le x)) (hread 1 hx)

/-! ## Register load -/

theorem exec_ldVxMem_of_fits (h : s.i.toNat + x.val ≤ 4095) :
    exec (.ldVxMem x) s = .next ((s.loadRegs s.i.toNat (x.val + 1)).advanceIndex x) :=
  (exec_ldVxMem x s).trans (if_pos ((bulk_fits_iff s x).2 h))

theorem exec_ldVxMem_of_not_fits (h : 4095 < s.i.toNat + x.val) :
    exec (.ldVxMem x) s = .next (s.raiseAddress (.ldVxMem x)) :=
  (exec_ldVxMem x s).trans (if_neg (by rw [bulk_fits_iff]; omega))

theorem State.loadRegs_i (s : State) (base n : Nat) : (s.loadRegs base n).i = s.i := by
  rw [State.loadRegs_eq]

theorem State.loadRegs_q (s : State) (base n : Nat) : (s.loadRegs base n).q = s.q := by
  rw [State.loadRegs_eq]

theorem changesOnly_loadRegs (s : State) (base n : Nat) (hn : n ≤ 16) :
    ChangesOnly s (s.loadRegs base n) (·.isRegBelow n) := by
  intro p hp
  cases p with
  | reg r => exact (s.readV_loadRegs base n hn r).trans (if_neg fun h => hp ⟨r, rfl, h⟩)
  | random => rw [State.loadRegs_eq]; exact ⟨rfl, rfl⟩
  | _ => rw [State.loadRegs_eq]; rfl

theorem changesOnly_load (s : State) (x : RegIdx) :
    ChangesOnly s ((s.loadRegs s.i.toNat (x.val + 1)).advanceIndex x) (fun p =>
      p.isRegBelow (x.val + 1) ∨ (s.q.incrementIndexOnBulkTransfer = true ∧ p = .index)) := by
  have hadvance := changesOnly_advanceIndex (s.loadRegs s.i.toNat (x.val + 1)) x
  rw [State.loadRegs_q] at hadvance
  exact (changesOnly_loadRegs s _ _ (by omega)).trans hadvance

/-- Settles O34, by whether the X + 1 bytes exist. -/
theorem registerLoadCopiesFromMemory : Obligations.RegisterLoadCopiesFromMemory := by
  intro x s
  rcases Nat.lt_or_ge 4095 (s.i.toNat + x.val) with hout | hin
  · exact ⟨_, exec_ldVxMem_of_not_fits hout, fun hin => absurd hin (by omega),
      fun _ => addressFaulted_raiseAddress _ s⟩
  · refine ⟨_, exec_ldVxMem_of_fits hin, fun _ => ⟨fun k hk => ?byte, ?index, ?frame⟩,
      fun hout => absurd hin (by omega)⟩
    case byte =>
      have hkx : k.val ≤ x.val := hk
      rw [State.readV_advanceIndex, State.readV_loadRegs _ _ _ (by omega), if_pos (by omega)]
    case index =>
      rw [State.advanceIndex_toNat (by rw [State.loadRegs_i]; exact hin), State.loadRegs_i, State.loadRegs_q]
    case frame => exact (changesOnly_load s x).mono fun _ hp => hp.imp_right And.right

end Sys2Proof.Machine
end

section
/-! Sprites (spec 44_display.md section 2): the effect of a draw whose bytes exist, then O37 to O40. -/

namespace Sys2Proof.Machine

variable {s : State} {x y : RegIdx} {n : BitVec 4}

/-- The state after a draw whose bytes all exist (R211). -/
def State.draw (s : State) (x y : RegIdx) (n : BitVec 4) : State :=
  let p := drawRows s.mem s.i.toNat (s.spriteColumn x) (s.spriteRow y) n.toNat (s.fb, false)
  State.writeV { s with fb := p.1 } vf (flagByte p.2)

/-- The sprite that a draw from `s` places has a 1 bit on the pixel of row `r` and column `c`. -/
def State.spriteOn (s : State) (x y : RegIdx) (n : BitVec 4) (r c : Nat) : Prop :=
  spriteCovers s.mem s.i.toNat (s.spriteColumn x) (s.spriteRow y) n.toNat r c

theorem exec_drw_of_fits (h : n.toNat = 0 ∨ s.i.toNat + n.toNat ≤ 4096) :
    exec (.drw x y n) s = .next (s.draw x y n) :=
  (exec_drw x y n s).trans (if_pos ((transferFits_iff _ _).2 h))

theorem exec_drw_of_not_fits (hn : 1 ≤ n.toNat) (h : 4096 < s.i.toNat + n.toNat) :
    exec (.drw x y n) s = .next (s.raiseAddress (.drw x y n)) :=
  (exec_drw x y n s).trans (if_neg (by rw [transferFits_iff]; omega))

theorem State.draw_pixel_iff (s : State) (x y : RegIdx) (n : BitVec 4) (r c : Nat) :
    (s.draw x y n).pixel r c = true ↔ ¬ (s.pixel r c = true ↔ s.spriteOn x y n r c) :=
  (drawRows_spec s.mem s.i.toNat (s.spriteColumn x) (s.spriteRow y) n.toNat (s.fb, false)).1 r c

theorem flagByte_eq_one_or_zero (b : Bool) : flagByte b = 1 ∨ flagByte b = 0 := by
  cases b
  · exact .inr rfl
  · exact .inl rfl

theorem flagByte_eq_one_iff (b : Bool) : flagByte b = 1 ↔ b = true := by
  cases b <;> decide

theorem State.draw_flag (s : State) (x y : RegIdx) (n : BitVec 4) :
    (s.draw x y n).readV vf = 1 ∨ (s.draw x y n).readV vf = 0 := by
  rw [State.draw, State.readV_writeV_same]
  exact flagByte_eq_one_or_zero _

theorem State.draw_flag_iff (s : State) (x y : RegIdx) (n : BitVec 4) :
    (s.draw x y n).readV vf = 1 ↔ ∃ r c, s.pixel r c = true ∧ s.spriteOn x y n r c := by
  have hmet := (drawRows_spec s.mem s.i.toNat (s.spriteColumn x) (s.spriteRow y) n.toNat (s.fb, false)).2
  rw [State.draw, State.readV_writeV_same, flagByte_eq_one_iff, hmet]
  simp only [Bool.false_eq_true, false_or, and_comm]
  rfl

theorem changesOnly_draw (s : State) (x y : RegIdx) (n : BitVec 4) :
    ChangesOnly s (s.draw x y n) (fun p => p.isPixel ∨ p = .reg vf) :=
  (changesOnly_fb s _).trans (changesOnly_writeV _ vf _)

/-- Settles O37: the compositor inverts the pixels the sprite covers. -/
theorem drawInvertsCoveredPixels : Obligations.DrawInvertsCoveredPixels :=
  fun x y n s hfits => ⟨_, exec_drw_of_fits hfits, s.draw_pixel_iff x y n, changesOnly_draw s x y n⟩

/-- Settles O38: the collision detector meets the covered pixels that were on. -/
theorem drawFlagReportsCollision : Obligations.DrawFlagReportsCollision :=
  fun x y n s hfits => ⟨_, exec_drw_of_fits hfits, s.draw_flag x y n, s.draw_flag_iff x y n⟩

/-- Settles O39: the range check comes first. -/
theorem drawOutOfRangeFaults : Obligations.DrawOutOfRangeFaults :=
  fun _ _ _ s hn hout => ⟨_, exec_drw_of_not_fits hn hout, addressFaulted_raiseAddress _ s⟩

/-! ## Drawing twice -/

/-- A draw whose origin does not rest on VF leaves the sprite where it was for the next one. -/
theorem State.spriteOn_draw (hx : x ≠ vf) (hy : y ≠ vf) (r c : Nat) :
    (s.draw x y n).spriteOn x y n r c ↔ s.spriteOn x y n r c := by
  have hcol : (s.draw x y n).spriteColumn x = s.spriteColumn x :=
    congrArg (·.toNat % 64) (State.readV_writeV_of_ne hx _)
  have hrow : (s.draw x y n).spriteRow y = s.spriteRow y :=
    congrArg (·.toNat % 32) (State.readV_writeV_of_ne hy _)
  simp only [State.spriteOn, hcol, hrow]
  rfl

theorem State.draw_draw_pixel (hx : x ≠ vf) (hy : y ≠ vf) (r c : Nat) :
    ((s.draw x y n).draw x y n).pixel r c = s.pixel r c := by
  rw [Bool.eq_iff_iff, State.draw_pixel_iff, State.draw_pixel_iff, State.spriteOn_draw hx hy]
  tauto

/-- On an empty framebuffer the first draw meets no pixel that is on. -/
theorem State.draw_flag_of_empty (hempty : ∀ r c, s.pixel r c = false) : (s.draw x y n).readV vf = 0 := by
  refine (s.draw_flag x y n).resolve_left fun hone => ?_
  obtain ⟨r, c, hon, -⟩ := (s.draw_flag_iff x y n).1 hone
  exact absurd hon (by rw [hempty]; exact Bool.false_ne_true)

/-- On an empty framebuffer the second draw meets exactly the pixels that the first turned on. -/
theorem State.draw_draw_flag_iff_of_empty (hx : x ≠ vf) (hy : y ≠ vf) (hempty : ∀ r c, s.pixel r c = false) :
    ((s.draw x y n).draw x y n).readV vf = 1 ↔ ∃ r c, s.spriteOn x y n r c := by
  simp only [State.draw_flag_iff, State.draw_pixel_iff, State.spriteOn_draw hx hy, hempty, Bool.false_eq_true,
    false_iff, not_not, and_self]

/-- Settles O40: the second draw inverts what the first inverted. -/
theorem drawTwiceRestoresFramebuffer : Obligations.DrawTwiceRestoresFramebuffer :=
  fun _ _ _ _ hx hy hfits => ⟨_, exec_drw_of_fits hfits, _, exec_drw_of_fits hfits, State.draw_draw_pixel hx hy,
    fun hempty => ⟨State.draw_flag_of_empty hempty, State.draw_draw_flag_iff_of_empty hx hy hempty⟩⟩

end Sys2Proof.Machine
end

section
/-! The key wait and the timer transfers (spec 45_keypad_timers.md): O42 and O43. -/

namespace Sys2Proof.Machine

variable {s : State} {x : RegIdx}

theorem exec_ldVxK_of_no_key (h : s.firstKey = none) : exec (.ldVxK x) s = .next (s.setPc (s.pc - 2)) := by
  rw [exec_ldVxK, execLdVxK, h]

theorem exec_ldVxK_of_key {k : Fin 16} (h : s.firstKey = some k) :
    exec (.ldVxK x) s = .next (s.writeV x (BitVec.ofNat 8 k.val)) := by
  rw [exec_ldVxK, execLdVxK, h]

/-- Settles O42, by whether a key is down. -/
theorem waitForKeyStoresSmallestOrGoesBack : Obligations.WaitForKeyStoresSmallestOrGoesBack := by
  intro x s
  cases hfirst : s.firstKey with
  | none =>
    have hup := (s.firstKey_none_iff).1 hfirst
    exact ⟨_, exec_ldVxK_of_no_key hfirst, fun _ => ⟨rfl, changesOnly_setPc s _⟩,
      fun k hk => absurd hk (by rw [hup k]; exact Bool.false_ne_true)⟩
  | some k =>
    obtain ⟨hdown, -⟩ := (s.firstKey_some_iff k).1 hfirst
    refine ⟨_, exec_ldVxK_of_key hfirst, fun hup => absurd hdown (by rw [hup k]; exact Bool.false_ne_true),
      fun j hj hsmallest => ?_⟩
    obtain rfl : k = j := Option.some.inj (hfirst.symm.trans ((s.firstKey_some_iff j).2 ⟨hj, hsmallest⟩))
    rw [State.readV_writeV_same]
    exact ⟨by rw [BitVec.toNat_ofNat]; omega, changesOnly_writeV s x _⟩

/-- Settles O43: each is one write. -/
theorem timerTransfersCopyTheByte : Obligations.TimerTransfersCopyTheByte :=
  fun x s => ⟨completes_of_writeV (exec_ldVxDt x s), ⟨_, exec_ldDtVx x s, rfl, changesOnly_setDelay s _⟩,
    ⟨_, exec_ldStVx x s, rfl, changesOnly_setSound s _⟩⟩

end Sys2Proof.Machine
end

section
/-! Footprints (spec 10_state.md, 40_step_cycle.md R124): every instruction completes and stays in its footprint,
O54. -/

namespace Sys2Proof.Machine

variable {s t u : State} {i : Instr} {x y : RegIdx}

/-- What `i` may change from `s` when nothing is assumed of `s`: a memory that is not in canonical form may read
otherwise anywhere after a store. -/
def looseFootprint (i : Instr) (s : State) (p : Part) : Prop :=
  footprint i s p ∨ (s.mem.wf = false ∧ ∃ a, p = .byte a)

theorem completes_of_footprint (h : exec i s = .next u) (hframe : ChangesOnly s u (footprint i s)) :
    Completes i s fun t => ChangesOnly s t (looseFootprint i s) :=
  ⟨u, h, hframe.mono fun _ => .inl⟩

/-- The footprint of an instruction that can fault holds the fault output. -/
theorem completes_of_raise {r : FaultRecord} (h : exec i s = .next (s.raise r)) (hi : footprint i s .report) :
    Completes i s fun t => ChangesOnly s t (looseFootprint i s) :=
  completes_of_footprint h ((changesOnly_raise s r).mono fun _ hp => hp ▸ hi)

/-! ## The frames of the arms that are more than one operation -/

theorem changesOnly_logicFlag (s : State) (x : RegIdx) (b : Byte) : ChangesOnly s (s.writeV x b).logicFlag
    (fun p => p = .reg x ∨ (s.q.resetFlagOnLogicOps = true ∧ p = .reg vf)) := by
  rw [State.logicFlag_eq, State.writeV_q]
  split
  case isTrue hon =>
    exact ((changesOnly_writeV s x b).trans (changesOnly_writeV _ vf 0)).mono fun _ hp => hp.imp_right fun h => ⟨hon, h⟩
  case isFalse => exact (changesOnly_writeV s x b).mono fun _ => .inl

theorem changesOnly_result_then_flag (s : State) (x : RegIdx) (d f : Byte) :
    ChangesOnly s ((s.writeV x d).writeV vf f) (fun p => p = .reg x ∨ p = .reg vf) :=
  (changesOnly_writeV s x d).trans (changesOnly_writeV _ vf f)

/-- Where only memory changes, only bytes change, whatever the form of the memory. -/
theorem changesOnly_bytes (hu : u = { s with mem := u.mem }) : ChangesOnly s u (fun p => ∃ a, p = .byte a) :=
  changesOnly_of_mem hu fun a ha => absurd ⟨a, rfl⟩ ha

/-- An instruction that stores to memory: the bytes it names where memory is in canonical form, any bytes where it is
not. -/
theorem completes_of_store (h : exec i s = .next u)
    (hcanonical : s.mem.wf = true → ChangesOnly s u (footprint i s))
    (hany : ChangesOnly s u fun p => (∃ a, p = .byte a) ∨ footprint i s p) :
    Completes i s fun t => ChangesOnly s t (looseFootprint i s) := by
  cases hmem : s.mem.wf with
  | true => exact completes_of_footprint h (hcanonical hmem)
  | false => exact ⟨u, h, hany.mono fun p hp => hp.symm.imp_right fun ha => ⟨hmem, ha⟩⟩

/-! ## Every instruction -/

theorem completes_ret (s : State) : Completes .ret s fun t => ChangesOnly s t (looseFootprint .ret s) := by
  rcases Nat.eq_zero_or_pos s.sp.val with hempty | hpos
  · exact completes_of_raise (exec_ret_of_empty hempty) (.inr (.inr rfl))
  · exact completes_of_footprint (exec_ret_of_pos hpos) ((changesOnly_popToPc hpos).mono fun _ hp => hp.imp_right .inl)

theorem completes_call (nnn : BitVec 12) (s : State) :
    Completes (.call nnn) s fun t => ChangesOnly s t (looseFootprint (.call nnn) s) := by
  rcases Nat.lt_or_ge s.sp.val 12 with hroom | hfull
  · exact completes_of_footprint (exec_call_of_room nnn hroom)
      ((changesOnly_call hroom _).mono fun _ hp => hp.imp_right fun h => h.imp_right .inl)
  · exact completes_of_raise (exec_call_of_full nnn (by omega)) (.inr (.inr (.inr rfl)))

theorem completes_drw (x y : RegIdx) (n : BitVec 4) (s : State) :
    Completes (.drw x y n) s fun t => ChangesOnly s t (looseFootprint (.drw x y n) s) := by
  by_cases hfits : n.toNat = 0 ∨ s.i.toNat + n.toNat ≤ 4096
  · exact completes_of_footprint (exec_drw_of_fits hfits)
      ((changesOnly_draw s x y n).mono fun _ hp => hp.imp_right .inl)
  · exact completes_of_raise (exec_drw_of_not_fits (by omega) (by omega)) (.inr (.inr rfl))

theorem completes_ldVxK (x : RegIdx) (s : State) :
    Completes (.ldVxK x) s fun t => ChangesOnly s t (looseFootprint (.ldVxK x) s) := by
  cases hfirst : s.firstKey with
  | none => exact completes_of_footprint (exec_ldVxK_of_no_key hfirst) ((changesOnly_setPc s _).mono fun _ => .inr)
  | some k => exact completes_of_footprint (exec_ldVxK_of_key hfirst) ((changesOnly_writeV s x _).mono fun _ => .inl)

theorem completes_ldB (x : RegIdx) (s : State) :
    Completes (.ldB x) s fun t => ChangesOnly s t (looseFootprint (.ldB x) s) := by
  rcases Nat.lt_or_ge 4093 s.i.toNat with hout | hin
  · exact completes_of_raise (exec_ldB_of_not_fits hout) (.inr rfl)
  · exact completes_of_store (exec_ldB_of_fits hin)
      (fun hwf => (changesOnly_storeDigits hwf hin _).mono fun _ => .inl) ((changesOnly_bytes rfl).mono fun _ => .inl)

theorem completes_ldMemVx (x : RegIdx) (s : State) :
    Completes (.ldMemVx x) s fun t => ChangesOnly s t (looseFootprint (.ldMemVx x) s) := by
  rcases Nat.lt_or_ge 4095 (s.i.toNat + x.val) with hout | hin
  · exact completes_of_raise (exec_ldMemVx_of_not_fits hout) (.inr (.inr rfl))
  · refine completes_of_store (exec_ldMemVx_of_fits hin)
      (fun hwf => (changesOnly_dump hwf hin).mono fun _ hp => hp.imp_right .inl) ?_
    have hadvance := changesOnly_advanceIndex (s.dumpRegs s.i.toNat (x.val + 1)) x
    rw [State.dumpRegs_q] at hadvance
    exact ((changesOnly_bytes (s.dumpRegs_eq _ _)).trans hadvance).mono fun _ hp => hp.imp_right fun h => .inr (.inl h)

theorem completes_ldVxMem (x : RegIdx) (s : State) :
    Completes (.ldVxMem x) s fun t => ChangesOnly s t (looseFootprint (.ldVxMem x) s) := by
  rcases Nat.lt_or_ge 4095 (s.i.toNat + x.val) with hout | hin
  · exact completes_of_raise (exec_ldVxMem_of_not_fits hout) (.inr (.inr rfl))
  · exact completes_of_footprint (exec_ldVxMem_of_fits hin)
      ((changesOnly_load s x).mono fun _ hp => hp.imp_right .inl)

/-- From every state every instruction answers a next state, and stays in its footprint. -/
theorem exec_completes (i : Instr) (s : State) :
    Completes i s fun t => ChangesOnly s t (looseFootprint i s) := by
  cases i with
  | cls => exact completes_of_footprint (exec_cls s) (changesOnly_fb s _)
  | ret => exact completes_ret s
  | jp nnn => exact completes_of_footprint (exec_jp nnn s) (changesOnly_setPc s _)
  | call nnn => exact completes_call nnn s
  | seImm x nn => exact completes_of_footprint (exec_seImm x nn s) (changesOnly_skipIf s _)
  | sneImm x nn => exact completes_of_footprint (exec_sneImm x nn s) (changesOnly_skipIf s _)
  | seReg x y => exact completes_of_footprint (exec_seReg x y s) (changesOnly_skipIf s _)
  | ldImm x nn => exact completes_of_footprint (exec_ldImm x nn s) (changesOnly_writeV s x _)
  | addImm x nn => exact completes_of_footprint (exec_addImm x nn s) (changesOnly_writeV s x _)
  | ldReg x y => exact completes_of_footprint (exec_ldReg x y s) (changesOnly_writeV s x _)
  | or x y => exact completes_of_footprint (exec_or x y s) (changesOnly_logicFlag s x _)
  | and x y => exact completes_of_footprint (exec_and x y s) (changesOnly_logicFlag s x _)
  | xor x y => exact completes_of_footprint (exec_xor x y s) (changesOnly_logicFlag s x _)
  | addReg x y => exact completes_of_footprint (exec_addReg x y s) (changesOnly_result_then_flag s x _ _)
  | sub x y => exact completes_of_footprint (exec_sub x y s) (changesOnly_flag_then_result (changesOnly_refl s _) _ _)
  | subn x y => exact completes_of_footprint (exec_subn x y s) (changesOnly_flag_then_result (changesOnly_refl s _) _ _)
  | shr x y =>
    exact completes_of_footprint (exec_shr x y s) (changesOnly_flag_then_result (changesOnly_shiftSource s x y) _ _)
  | shl x y =>
    exact completes_of_footprint (exec_shl x y s) (changesOnly_flag_then_result (changesOnly_shiftSource s x y) _ _)
  | sneReg x y => exact completes_of_footprint (exec_sneReg x y s) (changesOnly_skipIf s _)
  | ldI nnn => exact completes_of_footprint (exec_ldI nnn s) (changesOnly_setIndex s _)
  | jpV0 x nnn => exact completes_of_footprint (exec_jpV0 x nnn s) (changesOnly_setPc s _)
  | rnd x nn => exact completes_of_footprint (exec_rnd x nn s) (changesOnly_consume_then_write s x _)
  | drw x y n => exact completes_drw x y n s
  | skp x => exact completes_of_footprint (exec_skp x s) (changesOnly_skipIf s _)
  | sknp x => exact completes_of_footprint (exec_sknp x s) (changesOnly_skipIf s _)
  | ldVxDt x => exact completes_of_footprint (exec_ldVxDt x s) (changesOnly_writeV s x _)
  | ldVxK x => exact completes_ldVxK x s
  | ldDtVx x => exact completes_of_footprint (exec_ldDtVx x s) (changesOnly_setDelay s _)
  | ldStVx x => exact completes_of_footprint (exec_ldStVx x s) (changesOnly_setSound s _)
  | addI x => exact completes_of_footprint (exec_addI x s) (changesOnly_setIndex s _)
  | ldF x => exact completes_of_footprint (exec_ldF x s) (changesOnly_setIndex s _)
  | ldB x => exact completes_ldB x s
  | ldMemVx x => exact completes_ldMemVx x s
  | ldVxMem x => exact completes_ldVxMem x s

theorem exec_frame (h : exec i s = .next t) : ChangesOnly s t (looseFootprint i s) := by
  obtain ⟨u, hu, hframe⟩ := exec_completes i s
  obtain rfl : u = t := Host.Outcome.next.inj (hu.symm.trans h)
  exact hframe

/-- Settles O54: in canonical memory a store changes only the bytes it names. -/
theorem instructionsStayInTheirFootprint : Obligations.InstructionsStayInTheirFootprint := by
  intro i s t hwf h
  refine (exec_frame h).mono fun p hp => hp.resolve_right ?_
  rintro ⟨hloose, -⟩
  exact Bool.noConfusion (hwf.symm.trans hloose)

end Sys2Proof.Machine
end

section
/-! Faults (spec 40_step_cycle.md, 60_exceptions.md): which instruction raises what, then O7 to O12. -/

namespace Sys2Proof.Machine

variable {s t : State} {i : Instr}

/-! ## The fault an instruction raises -/

/-- The record of a fault that `i` raises when it executes in `s` (R275). -/
def faultRecord (i : Instr) (s : State) (code : FaultCode) (kind : FaultKind) (info : Option Nat) : FaultRecord :=
  { code := code, kind := kind, pc := s.pc - 2, op := some (encode i), info := info }

/-- The record of an AddressFault that `i` raises when it executes in `s` (R272). -/
def addressRecord (i : Instr) (s : State) : FaultRecord :=
  faultRecord i s .addressFault .execute (some (max s.i.toNat 4096))

/-- The fault `i` raises when it executes in `s`, if any (R279). -/
def executeFault (i : Instr) (s : State) : Option FaultRecord :=
  match i with
  | .ret => if s.sp.val = 0 then some (faultRecord .ret s .stackFault .underflow none) else none
  | .call nnn =>
    if s.sp.val = 12 then some (faultRecord (.call nnn) s .stackFault .overflow (some nnn.toNat)) else none
  | .ldB x => if 4093 < s.i.toNat then some (addressRecord (.ldB x) s) else none
  | .ldMemVx x => if 4095 < s.i.toNat + x.val then some (addressRecord (.ldMemVx x) s) else none
  | .ldVxMem x => if 4095 < s.i.toNat + x.val then some (addressRecord (.ldVxMem x) s) else none
  | .drw x y n =>
    if 1 ≤ n.toNat ∧ 4096 < s.i.toNat + n.toNat then some (addressRecord (.drw x y n) s) else none
  | _ => none

/-- The two ways an instruction goes: it raises its fault and does nothing else, or it leaves the fault output alone. -/
def RaisesExactly (i : Instr) (s : State) (fault : Option FaultRecord) : Prop :=
  match fault with
  | some r => exec i s = .next (s.raise r)
  | none => Completes i s fun t => t.report = s.report

theorem raisesExactly_ite {p : Prop} [Decidable p] {r : FaultRecord} (hfault : p → exec i s = .next (s.raise r))
    (hclean : ¬ p → Completes i s fun t => t.report = s.report) : RaisesExactly i s (if p then some r else none) := by
  split
  · exact hfault ‹p›
  · exact hclean ‹¬ p›

theorem State.report_skipIf (s : State) (c : Bool) : (s.skipIf c).report = s.report := by
  rw [State.skipIf_eq, State.setPc_report]

theorem State.report_logicFlag (s : State) : s.logicFlag.report = s.report := by
  rw [State.logicFlag_eq, apply_ite State.report, State.writeV_report, ite_self]

theorem State.report_shiftSource (s : State) (x y : RegIdx) : (s.shiftSource x y).report = s.report := by
  rw [State.shiftSource_eq, State.writeV_report]

theorem State.report_advanceIndex (s : State) (x : RegIdx) : (s.advanceIndex x).report = s.report := by
  rw [State.advanceIndex_eq, State.setIndex_report]

theorem State.report_dumpRegs (s : State) (base n : Nat) : (s.dumpRegs base n).report = s.report := by
  rw [State.dumpRegs_eq]

theorem State.report_loadRegs (s : State) (base n : Nat) : (s.loadRegs base n).report = s.report := by
  rw [State.loadRegs_eq]

/-- Every instruction raises exactly the fault `executeFault` names. -/
theorem exec_raisesExactly (i : Instr) (s : State) : RaisesExactly i s (executeFault i s) := by
  cases i with
  | ret => exact raisesExactly_ite exec_ret_of_empty fun h => ⟨_, exec_ret_of_pos (by omega), rfl⟩
  | call nnn => exact raisesExactly_ite (exec_call_of_full nnn) fun h => ⟨_, exec_call_of_room nnn (by omega), rfl⟩
  | ldB x => exact raisesExactly_ite exec_ldB_of_not_fits fun h => ⟨_, exec_ldB_of_fits (by omega), rfl⟩
  | ldMemVx x =>
    exact raisesExactly_ite exec_ldMemVx_of_not_fits fun h => ⟨_, exec_ldMemVx_of_fits (by omega),
      (State.report_advanceIndex _ x).trans (s.report_dumpRegs _ _)⟩
  | ldVxMem x =>
    exact raisesExactly_ite exec_ldVxMem_of_not_fits fun h => ⟨_, exec_ldVxMem_of_fits (by omega),
      (State.report_advanceIndex _ x).trans (s.report_loadRegs _ _)⟩
  | drw x y n =>
    exact raisesExactly_ite (fun h => exec_drw_of_not_fits h.1 h.2) fun h => ⟨_, exec_drw_of_fits (by omega), rfl⟩
  | seImm | sneImm | seReg | sneReg | skp | sknp => exact ⟨_, rfl, State.report_skipIf s _⟩
  | or | and | xor => exact ⟨_, rfl, State.report_logicFlag _⟩
  | shr x y | shl x y => exact ⟨_, rfl, State.report_shiftSource s x y⟩
  | ldVxK x =>
    cases hfirst : s.firstKey with
    | none => exact ⟨_, exec_ldVxK_of_no_key hfirst, rfl⟩
    | some k => exact ⟨_, exec_ldVxK_of_key hfirst, rfl⟩
  | cls | jp | jpV0 | ldImm | addImm | ldReg | addReg | sub | subn | ldI | rnd | ldVxDt | ldDtVx | ldStVx | addI
  | ldF =>
    exact ⟨_, rfl, rfl⟩

theorem exec_outcome (i : Instr) (s : State) :
    (∃ r, executeFault i s = some r ∧ exec i s = .next (s.raise r)) ∨
    (executeFault i s = none ∧ ∃ t, exec i s = .next t ∧ t.report = s.report) := by
  have hraises := exec_raisesExactly i s
  cases hfault : executeFault i s with
  | some r =>
    rw [hfault] at hraises
    exact .inl ⟨r, rfl, hraises⟩
  | none =>
    rw [hfault] at hraises
    exact .inr ⟨rfl, hraises⟩

theorem eq_of_ite_some {p : Prop} [Decidable p] {r r' : FaultRecord}
    (h : (if p then some r else none) = some r') : r = r' :=
  Option.some.inj (Option.ite_none_right_eq_some.1 h).2

/-- What the record of an execution says (R275). -/
theorem executeFault_record {r : FaultRecord} (h : executeFault i s = some r) :
    r.pc = s.pc - 2 ∧ r.op = some (encode i) ∧
      ((r.kind = .execute ∧ r.info = some (max s.i.toNat 4096)) ∨ (r.kind = .underflow ∧ r.info = none) ∨
        ∃ nnn, i = .call nnn ∧ r.kind = .overflow ∧ r.info = some nnn.toNat) := by
  cases i with
  | ret =>
    obtain rfl := eq_of_ite_some h
    exact ⟨rfl, rfl, .inr (.inl ⟨rfl, rfl⟩)⟩
  | call nnn =>
    obtain rfl := eq_of_ite_some h
    exact ⟨rfl, rfl, .inr (.inr ⟨nnn, rfl, rfl, rfl⟩)⟩
  | ldB | ldMemVx | ldVxMem | drw =>
    obtain rfl := eq_of_ite_some h
    exact ⟨rfl, rfl, .inl ⟨rfl, rfl⟩⟩
  | _ => cases h

theorem executeFault_kind_ne_fetch {r : FaultRecord} (h : executeFault i s = some r) : r.kind ≠ .fetch := by
  obtain ⟨-, -, ⟨hkind, -⟩ | ⟨hkind, -⟩ | ⟨-, -, hkind, -⟩⟩ := executeFault_record h <;> rw [hkind] <;> decide

/-! ## The three ways a cycle goes -/

theorem step_of_ok (h : s.pc.toNat ≤ 4094) (hd : decodeWord s.fetchWord = .ok i) : step s = exec i s.beginCycle := by
  rw [step, if_pos (s.canFetch_iff.2 h), hd]

theorem step_cases (s : State) :
    (4094 < s.pc.toNat ∧ step s = .next s.raiseFetch) ∨
    (s.pc.toNat ≤ 4094 ∧ (∃ r, decodeWord s.fetchWord = .error r) ∧ step s = .next (s.raiseUnknown s.fetchWord)) ∨
    (s.pc.toNat ≤ 4094 ∧ ∃ i, decodeWord s.fetchWord = .ok i ∧ step s = exec i s.beginCycle) := by
  rcases Nat.lt_or_ge 4094 s.pc.toNat with hbeyond | hpc
  · exact .inl ⟨hbeyond, step_of_not_fetchable hbeyond⟩
  · cases hd : decodeWord s.fetchWord with
    | error r => exact .inr (.inl ⟨hpc, ⟨r, rfl⟩, step_of_unknown hpc hd⟩)
    | ok i => exact .inr (.inr ⟨hpc, i, rfl, step_of_ok hpc hd⟩)

/-- Settles O7: the fetch reads the two bytes at PC. -/
theorem stepRunsDecodedInstruction : Obligations.StepRunsDecodedInstruction :=
  fun _ _ hpc hd => step_of_ok hpc hd

theorem changesOnly_beginCycle (s : State) : ChangesOnly s s.beginCycle (fun p => p = .pc ∨ p = .report) := by
  intro p hp
  cases p with
  | pc => exact absurd (.inl rfl) hp
  | report => exact absurd (.inr rfl) hp
  | random => exact ⟨rfl, rfl⟩
  | _ => rfl

theorem beginCycle_pc_toNat (h : s.pc.toNat ≤ 4094) : s.beginCycle.pc.toNat = s.pc.toNat + 2 := by
  rw [State.beginCycle_pc, BitVec.toNat_add]
  exact Nat.mod_eq_of_lt (show s.pc.toNat + 2 < 65536 by omega)

theorem changesOnly_raiseUnknown (s : State) (op : Word) :
    ChangesOnly s (s.raiseUnknown op) (fun p => p = .pc ∨ p = .report) :=
  ((changesOnly_beginCycle s).trans (changesOnly_raise _ _)).mono fun _ hp => hp.elim id .inr

/-- Settles O8: a word that is no instruction is rejected, and the cycle raises that. -/
theorem unknownWordReportsAndAdvances : Obligations.UnknownWordReportsAndAdvances := by
  intro s hpc hunknown
  cases hd : decodeWord s.fetchWord with
  | ok i => exact absurd hd (hunknown i)
  | error r =>
    exact ⟨_, step_of_unknown hpc hd, beginCycle_pc_toNat hpc, changesOnly_raiseUnknown s _, rfl⟩

/-- The first address out of range of a fetch at a PC above 4094 (R121). -/
theorem faultAddress_of_beyond {pc : Nat} (h : 4094 < pc) : faultAddress pc = if pc = 4095 then 4096 else pc := by
  rw [faultAddress, Config.memSize]
  split <;> omega

/-- Settles O9: a refused fetch is one fault entry. -/
theorem fetchBeyondMemoryChangesNothing : Obligations.FetchBeyondMemoryChangesNothing := by
  intro s hbeyond
  refine ⟨_, step_of_not_fetchable hbeyond, changesOnly_raise s _, ?_⟩
  rw [State.raiseFetch, State.raise_report, faultAddress_of_beyond hbeyond]

/-! ## The outcomes of a cycle -/

/-- Settles O10, by how the cycle goes; an instruction raises a fault or leaves the cleared fault output alone. -/
theorem everyStepHasOneOfThreeOutcomes : Obligations.EveryStepHasOneOfThreeOutcomes := by
  intro s
  obtain ⟨-, hstep⟩ | ⟨-, -, hstep⟩ | ⟨-, i, -, hstep⟩ := step_cases s
  · exact ⟨_, hstep, .inr (.inr ⟨_, rfl, rfl⟩)⟩
  · refine ⟨_, hstep, .inr (.inl ⟨_, ?_, rfl⟩)⟩
    nofun
  · obtain ⟨r, hfault, hexec⟩ | ⟨-, t, hexec, hreport⟩ := exec_outcome i s.beginCycle
    · exact ⟨_, hstep.trans hexec, .inr (.inl ⟨r, executeFault_kind_ne_fetch hfault, rfl⟩)⟩
    · exact ⟨t, hstep.trans hexec, .inl hreport⟩

/-- The table of R279 asks of a decoded word what its instruction raises. -/
theorem faultDue_of_ok (hpc : s.pc.toNat ≤ 4094) (hd : decodeWord s.fetchWord = .ok i) :
    faultDue s = (executeFault i s.beginCycle).map fun r => (r.code, r.kind) := by
  rw [faultDue, if_neg (by omega), hd]
  cases i with
  | ret | call | ldB | ldMemVx | ldVxMem | drw => simp only [executeFault, Option.map_if]; rfl
  | _ => rfl

/-- Settles O11, by how the cycle goes. -/
theorem faultsAreExactlyThoseOfTheTable : Obligations.FaultsAreExactlyThoseOfTheTable := by
  intro s
  obtain ⟨hbeyond, hstep⟩ | ⟨hpc, ⟨r, hd⟩, hstep⟩ | ⟨hpc, i, hd, hstep⟩ := step_cases s
  · refine ⟨_, hstep, ?_⟩
    rw [faultDue, if_pos hbeyond]
    rfl
  · refine ⟨_, hstep, ?_⟩
    rw [faultDue, if_neg (by omega), hd]
    rfl
  · rw [faultDue_of_ok hpc hd]
    obtain ⟨r, hfault, hexec⟩ | ⟨hfault, t, hexec, hreport⟩ := exec_outcome i s.beginCycle
    · exact ⟨_, hstep.trans hexec, hfault ▸ rfl⟩
    · exact ⟨t, hstep.trans hexec, hfault ▸ congrArg _ hreport⟩

/-! ## The record -/

theorem fieldNNN_toNat (w : Word) : (fieldNNN w).toNat = w.toNat % 4096 := by
  simp only [fieldNNN, BitVec.extractLsb'_toNat, Nat.shiftRight_zero]

theorem encode_call_mod (nnn : BitVec 12) : (encode (.call nnn)).toNat % 4096 = nnn.toNat := by
  rw [← fieldNNN_toNat, encode, fieldNNN_encodeAddr]

/-- A cycle that reports a record, and what was raised. -/
theorem step_report_cases {r : FaultRecord} (hstep : step s = .next t) (hr : t.report = some r) :
    (4094 < s.pc.toNat ∧ t = s.raiseFetch) ∨ t = s.raiseUnknown s.fetchWord ∨
      ∃ i, decodeWord s.fetchWord = .ok i ∧ executeFault i s.beginCycle = some r := by
  obtain ⟨hbeyond, h⟩ | ⟨-, -, h⟩ | ⟨-, i, hd, h⟩ := step_cases s
  · exact .inl ⟨hbeyond, Host.Outcome.next.inj (hstep.symm.trans h)⟩
  · exact .inr (.inl (Host.Outcome.next.inj (hstep.symm.trans h)))
  · refine .inr (.inr ⟨i, hd, ?_⟩)
    obtain ⟨r', hfault, hexec⟩ | ⟨-, u, hexec, hreport⟩ := exec_outcome i s.beginCycle
    · obtain rfl := Host.Outcome.next.inj (hstep.symm.trans (h.trans hexec))
      exact hfault.trans hr
    · obtain rfl := Host.Outcome.next.inj (hstep.symm.trans (h.trans hexec))
      exact absurd (hr.symm.trans hreport) nofun

/-- Settles O12, by what was raised; an instruction's word is the word fetched because decoding drops no bit. -/
theorem faultRecordNamesTheInstruction : Obligations.FaultRecordNamesTheInstruction := by
  intro s t r hstep hr
  obtain ⟨hbeyond, rfl⟩ | rfl | ⟨i, hd, hfault⟩ := step_report_cases hstep hr
  · obtain rfl := Option.some.inj hr
    simp [faultAddress, Config.memSize]
  · obtain rfl := Option.some.inj hr
    simp
  · obtain ⟨-, hword⟩ := decodeThenEncodeGivesWordBack _ _ hd
    obtain ⟨hpc, hop, hkind⟩ := executeFault_record hfault
    have hpc' : r.pc = s.pc := hpc.trans (BitVec.add_sub_cancel s.pc 2)
    rw [hword] at hop
    obtain ⟨hk, hinfo⟩ | ⟨hk, hinfo⟩ | ⟨nnn, rfl, hk, hinfo⟩ := hkind
    · simp [hpc', hop, hk, hinfo]
    · simp [hpc', hop, hk, hinfo]
    · simp [hpc', hop, hk, hinfo, ← hword, encode_call_mod]

end Sys2Proof.Machine
end

section
/-! What every step keeps (spec 10_state.md, 40_step_cycle.md R124): what a cycle changes, legal states, and the sound
timer: O53, O55 and O57. -/

namespace Sys2Proof.Machine

variable {s t : State} {i : Instr} {x : RegIdx}

/-! ## What a cycle changes -/

/-- What a cycle changes beside PC and the fault output, the instruction it runs has changed, and may change. -/
theorem step_changed (h : step s = .next t) {p : Part} (hpc : p ≠ .pc) (hreport : p ≠ .report) (hne : ¬ p.same s t) :
    ∃ i, decodeWord s.fetchWord = .ok i ∧ exec i s.beginCycle = .next t ∧ looseFootprint i s.beginCycle p := by
  obtain ⟨-, hstep⟩ | ⟨-, -, hstep⟩ | ⟨-, i, hd, hstep⟩ := step_cases s
  · obtain rfl := Host.Outcome.next.inj (hstep.symm.trans h)
    exact absurd (changesOnly_raise s _ p hreport) hne
  · obtain rfl := Host.Outcome.next.inj (hstep.symm.trans h)
    exact absurd (changesOnly_raiseUnknown s _ p (not_or.2 ⟨hpc, hreport⟩)) hne
  · have hexec := hstep.symm.trans h
    refine ⟨i, hd, hexec, ?_⟩
    by_contra hout
    exact hne (Part.same_trans (changesOnly_beginCycle s p (not_or.2 ⟨hpc, hreport⟩)) (exec_frame hexec p hout))

/-- No instruction writes `Q` (10_state.md R32). -/
theorem not_looseFootprint_quirks : ¬ looseFootprint i s .quirks := by
  cases i <;> simp [looseFootprint, footprint, Part.isPixel, Part.isByteIn, Part.isRegBelow]

/-- No instruction writes a key (R30). -/
theorem not_looseFootprint_key {k : Fin 16} : ¬ looseFootprint i s (.key k) := by
  cases i <;> simp [looseFootprint, footprint, Part.isPixel, Part.isByteIn, Part.isRegBelow]

/-- Only LD DT, Vx writes the delay timer (R29). -/
theorem eq_ldDtVx_of_looseFootprint (h : looseFootprint i s .delay) : ∃ x, i = .ldDtVx x := by
  cases i <;> simp [looseFootprint, footprint, Part.isPixel, Part.isByteIn, Part.isRegBelow] at h ⊢

/-- Only LD ST, Vx writes the sound timer (R29). -/
theorem eq_ldStVx_of_looseFootprint (h : looseFootprint i s .sound) : ∃ x, i = .ldStVx x := by
  cases i <;> simp [looseFootprint, footprint, Part.isPixel, Part.isByteIn, Part.isRegBelow] at h ⊢

theorem step_keeps_q (h : step s = .next t) : t.q = s.q := by
  by_contra hne
  obtain ⟨i, -, -, hp⟩ := step_changed (p := .quirks) h nofun nofun hne
  exact not_looseFootprint_quirks hp

theorem step_keeps_keys (h : step s = .next t) (k : Fin 16) : t.key k = s.key k := by
  by_contra hne
  obtain ⟨i, -, -, hp⟩ := step_changed (p := .key k) h nofun nofun hne
  exact not_looseFootprint_key hp

theorem step_delay (h : step s = .next t) (hne : t.dt ≠ s.dt) :
    ∃ x, decodeWord s.fetchWord = .ok (.ldDtVx x) ∧ t.dt = s.readV x := by
  obtain ⟨i, hd, hexec, hp⟩ := step_changed (p := .delay) h nofun nofun hne
  obtain ⟨x, rfl⟩ := eq_ldDtVx_of_looseFootprint hp
  obtain rfl := Host.Outcome.next.inj ((exec_ldDtVx x _).symm.trans hexec)
  exact ⟨x, hd, rfl⟩

theorem step_sound (h : step s = .next t) (hne : t.st ≠ s.st) :
    ∃ x, decodeWord s.fetchWord = .ok (.ldStVx x) ∧ t.st = s.readV x := by
  obtain ⟨i, hd, hexec, hp⟩ := step_changed (p := .sound) h nofun nofun hne
  obtain ⟨x, rfl⟩ := eq_ldStVx_of_looseFootprint hp
  obtain rfl := Host.Outcome.next.inj ((exec_ldStVx x _).symm.trans hexec)
  exact ⟨x, hd, rfl⟩

/-- Settles O55, part by part from what a cycle changes. -/
theorem stepTouchesTimersOnlyByTheirInstructions : Obligations.StepTouchesTimersOnlyByTheirInstructions :=
  fun _ _ h => ⟨step_keeps_q h, step_keeps_keys h, step_delay h, step_sound h⟩

/-! ## Legal states -/

/-- A legal state in which an instruction executes: PC has just been advanced from a word that exists. -/
def State.AdvancedInv (s : State) : Prop := s.Inv ∧ 2 ≤ s.pc.toNat ∧ s.pc.toNat ≤ 4096

theorem State.Inv.beginCycle (h : s.Inv) (hpc : s.pc.toNat ≤ 4094) : s.beginCycle.AdvancedInv := by
  obtain ⟨hwf, hlegal, -, hstack⟩ := h
  have hadv := beginCycle_pc_toNat hpc
  exact ⟨⟨hwf, hlegal, by omega, hstack⟩, by omega, by omega⟩

theorem State.Inv.setPc (h : s.Inv) {w : Word} (hw : w.toNat ≤ 0x10FE) : (s.setPc w).Inv := by
  obtain ⟨hwf, hlegal, -, hstack⟩ := h
  exact ⟨hwf, hlegal, hw, hstack⟩

theorem State.Inv.wf (h : s.Inv) : s.mem.wf = true := h.1

theorem State.Inv.of_mem (h : s.Inv) (ht : t = { s with mem := t.mem }) (hwf : t.mem.wf = true) : t.Inv := by
  obtain ⟨-, hlegal, hpc, hstack⟩ := h
  rw [ht]
  exact ⟨hwf, hlegal, hpc, hstack⟩

theorem State.AdvancedInv.skipIf (h : s.AdvancedInv) (c : Bool) : (s.skipIf c).Inv := by
  obtain ⟨hinv, -, hle⟩ := h
  rw [State.skipIf_eq]
  refine hinv.setPc ?_
  split
  · rw [BitVec.toNat_add]
    exact (Nat.mod_le _ _).trans (show s.pc.toNat + 2 ≤ 0x10FE by omega)
  · omega

theorem State.Inv.logicFlag (h : s.Inv) : s.logicFlag.Inv := by
  rw [State.logicFlag_eq]
  split <;> exact h

theorem State.Inv.shiftSource (h : s.Inv) (x y : RegIdx) : (s.shiftSource x y).Inv := by
  rw [State.shiftSource_eq]
  exact h

theorem State.Inv.advanceIndex (h : s.Inv) (x : RegIdx) : (s.advanceIndex x).Inv := by
  rw [State.advanceIndex_eq]
  exact h

theorem addrWord_le (nnn : BitVec 12) : (addrWord nnn).toNat ≤ 0x10FE := by
  have := nnn.isLt
  rw [addrWord_toNat]
  omega

theorem State.AdvancedInv.push (h : s.AdvancedInv) (hroom : s.sp.val < 12) : (s.push s.pc hroom).Inv := by
  obtain ⟨⟨hwf, hlegal, hpc, hstack⟩, -, hle⟩ := h
  refine ⟨hwf, hlegal, hpc, fun k => ?_⟩
  rw [State.push_stack_get]
  split
  · exact hle
  · exact hstack k

theorem State.Inv.popToPc (h : s.Inv) (hpos : 0 < s.sp.val) : (s.popToPc hpos).Inv := by
  obtain ⟨hwf, hlegal, -, hstack⟩ := h
  have htop : (s.popToPc hpos).pc.toNat ≤ 4096 := by
    rw [State.popToPc_pc_eq_get hpos ⟨s.sp.val - 1, by omega⟩ rfl]
    exact hstack _
  exact ⟨hwf, hlegal, by omega, hstack⟩

/-- Every instruction executed in a legal state ends in a legal state. -/
theorem exec_inv (i : Instr) (h : s.AdvancedInv) : Completes i s State.Inv := by
  obtain ⟨hinv, hge, hle⟩ := id h
  cases i with
  | cls | ldImm | addImm | ldReg | addReg | sub | subn | ldI | rnd | ldVxDt | ldDtVx | ldStVx | addI | ldF =>
    exact ⟨_, rfl, hinv⟩
  | seImm | sneImm | seReg | sneReg | skp | sknp => exact ⟨_, rfl, h.skipIf _⟩
  | or | and | xor => exact ⟨_, rfl, State.Inv.logicFlag hinv⟩
  | shr x y | shl x y => exact ⟨_, rfl, State.Inv.shiftSource hinv x y⟩
  | jp nnn => exact ⟨_, exec_jp nnn s, hinv.setPc (addrWord_le nnn)⟩
  | jpV0 x nnn => exact ⟨_, exec_jpV0 x nnn s, hinv.setPc (toWord_add_addrWord_le _ nnn)⟩
  | ret =>
    rcases Nat.eq_zero_or_pos s.sp.val with hempty | hpos
    · exact ⟨_, exec_ret_of_empty hempty, hinv⟩
    · exact ⟨_, exec_ret_of_pos hpos, hinv.popToPc hpos⟩
  | call nnn =>
    rcases Nat.lt_or_ge s.sp.val 12 with hroom | hfull
    · exact ⟨_, exec_call_of_room nnn hroom, (h.push hroom).setPc (addrWord_le nnn)⟩
    · exact ⟨_, exec_call_of_full nnn (by omega), hinv⟩
  | drw x y n =>
    by_cases hfits : n.toNat = 0 ∨ s.i.toNat + n.toNat ≤ 4096
    · exact ⟨_, exec_drw_of_fits hfits, hinv⟩
    · exact ⟨_, exec_drw_of_not_fits (by omega) (by omega), hinv⟩
  | ldVxK x =>
    cases hfirst : s.firstKey with
    | none =>
      refine ⟨_, exec_ldVxK_of_no_key hfirst, hinv.setPc ?_⟩
      rw [BitVec.toNat_sub_of_le hge]
      omega
    | some k => exact ⟨_, exec_ldVxK_of_key hfirst, hinv⟩
  | ldB x =>
    rcases Nat.lt_or_ge 4093 s.i.toNat with hout | hin
    · exact ⟨_, exec_ldB_of_not_fits hout, hinv⟩
    · exact ⟨_, exec_ldB_of_fits hin, hinv.of_mem rfl (State.storeDigits_spec hinv.wf hin _).1⟩
  | ldMemVx x =>
    rcases Nat.lt_or_ge 4095 (s.i.toNat + x.val) with hout | hin
    · exact ⟨_, exec_ldMemVx_of_not_fits hout, hinv⟩
    · have hdump := State.dumpRegs_spec hinv.wf s.i.toNat (x.val + 1) (by omega) (by omega)
      exact ⟨_, exec_ldMemVx_of_fits hin, (hinv.of_mem (s.dumpRegs_eq _ _) hdump.1).advanceIndex x⟩
  | ldVxMem x =>
    rcases Nat.lt_or_ge 4095 (s.i.toNat + x.val) with hout | hin
    · exact ⟨_, exec_ldVxMem_of_not_fits hout, hinv⟩
    · refine ⟨_, exec_ldVxMem_of_fits hin, State.Inv.advanceIndex ?_ x⟩
      rw [State.loadRegs_eq]
      exact hinv

/-- Settles O53: a fault moves PC by at most 2, and an instruction keeps the invariant. -/
theorem everyStepKeepsInvariant : Obligations.EveryStepKeepsInvariant := by
  intro s t hinv h
  obtain ⟨-, hstep⟩ | ⟨hpc, -, hstep⟩ | ⟨hpc, i, -, hstep⟩ := step_cases s
  · obtain rfl := Host.Outcome.next.inj (hstep.symm.trans h)
    exact hinv
  · obtain rfl := Host.Outcome.next.inj (hstep.symm.trans h)
    exact (hinv.beginCycle hpc).1
  · obtain ⟨u, hexec, hu⟩ := exec_inv i (hinv.beginCycle hpc)
    obtain rfl := Host.Outcome.next.inj ((hstep.symm.trans h).symm.trans hexec)
    exact hu

/-! ## The sound timer is not read -/

section
variable (s : State) (b : Byte)

theorem State.skipIf_setSound (c : Bool) : (s.setSound b).skipIf c = (s.skipIf c).setSound b := by
  cases c <;> rfl

theorem State.logicFlag_setSound (x : RegIdx) (v : Byte) :
    ((s.setSound b).writeV x v).logicFlag = (s.writeV x v).logicFlag.setSound b := by
  rw [State.logicFlag_eq, State.logicFlag_eq, apply_ite (State.setSound · b)]
  rfl

theorem State.shiftSource_setSound (x y : RegIdx) :
    (s.setSound b).shiftSource x y = (s.shiftSource x y).setSound b := by
  simp only [State.shiftSource_eq]
  rfl

theorem State.advanceIndex_setSound (x : RegIdx) : (s.setSound b).advanceIndex x = (s.advanceIndex x).setSound b := by
  simp only [State.advanceIndex_eq]
  rfl

theorem State.dumpRegs_setSound (base n : Nat) :
    (s.setSound b).dumpRegs base n = (s.dumpRegs base n).setSound b := by
  induction n with
  | zero => rfl
  | succ k ih => rw [State.dumpRegs, ih]; rfl

theorem State.loadRegs_setSound (base n : Nat) :
    (s.setSound b).loadRegs base n = (s.loadRegs base n).setSound b := by
  induction n with
  | zero => rfl
  | succ k ih => rw [State.loadRegs, ih]; rfl

/-- Whatever the sound timer holds, `i` does the same from `s`, but for the sound timer it leaves. -/
def SoundBlind (i : Instr) (s : State) (b : Byte) : Prop :=
  ∃ t c, exec i s = .next t ∧ exec i (s.setSound b) = .next (t.setSound c)

/-- An arm whose operation from `s` commutes with a write of the sound timer. -/
theorem soundBlind_of_commutes {i : Instr} {s : State} {b : Byte} {u v : State} (h : exec i s = .next u)
    (hb : exec i (s.setSound b) = .next v) (hcomm : v = u.setSound b) : SoundBlind i s b :=
  ⟨u, b, h, hb.trans (congrArg _ hcomm)⟩

theorem exec_soundBlind (i : Instr) : SoundBlind i s b := by
  cases i with
  | cls | jp | jpV0 | ldImm | addImm | ldReg | addReg | sub | subn | ldI | rnd | ldVxDt | ldDtVx | addI | ldF =>
    exact soundBlind_of_commutes rfl rfl rfl
  | ldStVx x => exact ⟨_, s.readV x, exec_ldStVx x s, rfl⟩
  | seImm | sneImm | seReg | sneReg | skp | sknp => exact soundBlind_of_commutes rfl rfl (s.skipIf_setSound b _)
  | or | and | xor => exact soundBlind_of_commutes rfl rfl (s.logicFlag_setSound b _ _)
  | shr x y =>
    refine soundBlind_of_commutes (exec_shr x y s) (exec_shr x y _) ?_
    simp only [State.shiftSource_setSound]
    rfl
  | shl x y =>
    refine soundBlind_of_commutes (exec_shl x y s) (exec_shl x y _) ?_
    simp only [State.shiftSource_setSound]
    rfl
  | ret =>
    rcases Nat.eq_zero_or_pos s.sp.val with hempty | hpos
    · exact soundBlind_of_commutes (exec_ret_of_empty hempty) (exec_ret_of_empty hempty) rfl
    · exact soundBlind_of_commutes (exec_ret_of_pos hpos) (exec_ret_of_pos (s := s.setSound b) hpos) rfl
  | call nnn =>
    rcases Nat.lt_or_ge s.sp.val 12 with hroom | hfull
    · exact soundBlind_of_commutes (exec_call_of_room nnn hroom)
        (exec_call_of_room (s := s.setSound b) nnn hroom) rfl
    · have hfull : s.sp.val = 12 := by omega
      exact soundBlind_of_commutes (exec_call_of_full nnn hfull) (exec_call_of_full nnn hfull) rfl
  | drw x y n =>
    by_cases hfits : n.toNat = 0 ∨ s.i.toNat + n.toNat ≤ 4096
    · exact soundBlind_of_commutes (exec_drw_of_fits hfits) (exec_drw_of_fits hfits) rfl
    · have hn : 1 ≤ n.toNat := by omega
      have hout : 4096 < s.i.toNat + n.toNat := by omega
      exact soundBlind_of_commutes (exec_drw_of_not_fits hn hout) (exec_drw_of_not_fits hn hout) rfl
  | ldVxK x =>
    cases hfirst : s.firstKey with
    | none => exact soundBlind_of_commutes (exec_ldVxK_of_no_key hfirst) (exec_ldVxK_of_no_key hfirst) rfl
    | some k => exact soundBlind_of_commutes (exec_ldVxK_of_key hfirst) (exec_ldVxK_of_key hfirst) rfl
  | ldB x =>
    rcases Nat.lt_or_ge 4093 s.i.toNat with hout | hin
    · exact soundBlind_of_commutes (exec_ldB_of_not_fits hout) (exec_ldB_of_not_fits hout) rfl
    · exact soundBlind_of_commutes (exec_ldB_of_fits hin) (exec_ldB_of_fits hin) rfl
  | ldMemVx x =>
    rcases Nat.lt_or_ge 4095 (s.i.toNat + x.val) with hout | hin
    · exact soundBlind_of_commutes (exec_ldMemVx_of_not_fits hout) (exec_ldMemVx_of_not_fits hout) rfl
    · refine soundBlind_of_commutes (exec_ldMemVx_of_fits hin) (exec_ldMemVx_of_fits hin) ?_
      rw [State.dumpRegs_setSound, State.advanceIndex_setSound]
      rfl
  | ldVxMem x =>
    rcases Nat.lt_or_ge 4095 (s.i.toNat + x.val) with hout | hin
    · exact soundBlind_of_commutes (exec_ldVxMem_of_not_fits hout) (exec_ldVxMem_of_not_fits hout) rfl
    · refine soundBlind_of_commutes (exec_ldVxMem_of_fits hin) (exec_ldVxMem_of_fits hin) ?_
      rw [State.loadRegs_setSound, State.advanceIndex_setSound]
      rfl

end

/-- Settles O57, by how the cycle goes: neither the fetch nor any instruction reads ST. -/
theorem soundTimerIsNeverRead : Obligations.SoundTimerIsNeverRead := by
  intro s t b h
  obtain ⟨hbeyond, hstep⟩ | ⟨hpc, ⟨r, hd⟩, hstep⟩ | ⟨hpc, i, hd, hstep⟩ := step_cases s
  · obtain rfl := Host.Outcome.next.inj (hstep.symm.trans h)
    exact ⟨_, step_of_not_fetchable hbeyond, rfl⟩
  · obtain rfl := Host.Outcome.next.inj (hstep.symm.trans h)
    exact ⟨_, step_of_unknown hpc hd, rfl⟩
  · obtain ⟨u, c, hexec, hblind⟩ := exec_soundBlind s.beginCycle b i
    obtain rfl := Host.Outcome.next.inj ((hstep.symm.trans h).symm.trans hexec)
    exact ⟨_, (step_of_ok (s := s.setSound b) hpc hd).trans hblind, rfl⟩

end Sys2Proof.Machine
end

section
/-! Runs of `step()` (spec 40_step_cycle.md): one induction for what steps keep, one for a machine that stays where it
is, then O13 and O14. -/

namespace Sys2Proof.Machine

variable {s t u : State} {k : Nat}

/-! ## Runs -/

/-- A step answers a next state from every state (R126). -/
theorem step_next (s : State) : ∃ t, step s = .next t :=
  (everyStepHasOneOfThreeOutcomes s).imp fun _ h => h.1

theorem stepsFrom_succ (h : step s = .next t) : stepsFrom (k + 1) s = stepsFrom k t := by
  simp only [stepsFrom, Host.Core.run, Sys2Proof.core, h]

/-- What holds at the start of a run and is kept by each of its steps holds at its end. -/
theorem stepsFrom_keeps {P : State → Prop} (hrun : stepsFrom k s = .next u) (hstart : P s)
    (hstep : ∀ j v t, j < k → stepsFrom j s = .next v → step v = .next t → P v → P t) : P u := by
  induction k generalizing s with
  | zero =>
    obtain rfl := Host.Outcome.next.inj hrun
    exact hstart
  | succ k ih =>
    obtain ⟨t, ht⟩ := step_next s
    rw [stepsFrom_succ ht] at hrun
    refine ih hrun (hstep 0 s t k.succ_pos rfl ht hstart) fun j v w hj hv => ?_
    exact hstep (j + 1) v w (Nat.succ_lt_succ hj) ((stepsFrom_succ ht).trans hv)

/-- A machine each of whose steps changes nothing but the fault output stays where it is. -/
theorem stepsFrom_stays {P Q : State → Prop}
    (hstep : ∀ s, P s → ∃ t, step s = .next t ∧ P t ∧ ChangesOnly s t (· = .report) ∧ Q t) (k : Nat) (hs : P s) :
    ∃ t, stepsFrom (k + 1) s = .next t ∧ ChangesOnly s t (· = .report) ∧ Q t := by
  induction k generalizing s with
  | zero =>
    obtain ⟨t, ht, -, hframe, hq⟩ := hstep s hs
    exact ⟨t, stepsFrom_succ ht, hframe, hq⟩
  | succ k ih =>
    obtain ⟨t, ht, hpt, hframe, -⟩ := hstep s hs
    obtain ⟨u, hu, hframe', hq⟩ := ih hpt
    exact ⟨u, (stepsFrom_succ ht).trans hu, (hframe.trans hframe').mono fun _ => or_self_iff.1, hq⟩

/-- Settles O13: a refused fetch leaves PC, so it is refused again. -/
theorem haltedMachineStaysHalted : Obligations.HaltedMachineStaysHalted :=
  fun k _ => stepsFrom_stays (P := State.halted) (fun s hs =>
    ⟨s.raiseFetch, step_of_not_fetchable hs, hs, changesOnly_raise s _, rfl⟩) k

/-- A blocked machine's step clears the fault output and does nothing else. -/
theorem step_of_blocked (h : s.blocked) : step s = .next { s with report := none } := by
  obtain ⟨hpc, ⟨x, hd⟩, hup⟩ := h
  rw [step_of_ok hpc hd, exec_ldVxK_of_no_key (s.beginCycle.firstKey_none_iff.2 hup), State.beginCycle_pc,
    BitVec.add_sub_cancel]
  rfl

theorem changesOnly_clearReport (s : State) : ChangesOnly s { s with report := none } (· = .report) := by
  intro p hp
  cases p with
  | report => exact absurd rfl hp
  | random => exact ⟨rfl, rfl⟩
  | _ => rfl

/-- Settles O14: LD Vx, K with no key down takes back the advance of PC. -/
theorem blockedMachineWaitsInPlace : Obligations.BlockedMachineWaitsInPlace :=
  fun k _ => stepsFrom_stays (P := State.blocked) (fun s hs =>
    ⟨_, step_of_blocked hs, hs, changesOnly_clearReport s, rfl⟩) k

end Sys2Proof.Machine
end

section
/-! Frames and sessions (spec 46_frame_cadence.md): a frame as steps and one tick, then O44 to O48 and O56. -/

namespace Sys2Proof.Machine

variable {s t : State} {n : Nat}

/-! ## The cycles of a frame -/

theorem runCycles_of_beyond (h : 4094 < s.pc.toNat) (n : Nat) : runCycles n s = .next (s, []) := by
  cases n with
  | zero => rfl
  | succ n => rw [runCycles, if_neg (by rw [State.canFetch_iff]; omega)]

theorem runCycles_succ {u : State} {faults : List FaultRecord} (hpc : s.pc.toNat ≤ 4094) (ht : step s = .next t)
    (hrest : runCycles n t = .next (u, faults)) : runCycles (n + 1) s = .next (u, t.report.toList ++ faults) := by
  rw [runCycles, if_pos (s.canFetch_iff.2 hpc), ht]
  simp only [hrest]

/-- The records the first `k` steps from `s` report, in order. -/
def reportsOf (k : Nat) (s : State) : List FaultRecord :=
  (List.range k).filterMap fun j => reportAfter (j + 1) s

theorem reportAfter_succ (ht : step s = .next t) (j : Nat) : reportAfter (j + 1) s = reportAfter j t := by
  rw [reportAfter, stepsFrom_succ ht, reportAfter]

theorem reportsOf_succ (ht : step s = .next t) (k : Nat) : reportsOf (k + 1) s = t.report.toList ++ reportsOf k t := by
  have hfirst : reportAfter 1 s = t.report := reportAfter_succ ht 0
  rw [reportsOf, List.range_succ_eq_map, List.filterMap_cons, List.filterMap_map, hfirst]
  simp only [Function.comp_def, reportAfter_succ ht]
  cases t.report <;> rfl

/-- The cycles of a frame are `k` steps: as many as the budget, or fewer where PC has left memory. -/
theorem runCycles_spec (n : Nat) (s : State) : ∃ k u, k ≤ n ∧ stepsFrom k s = .next u ∧
    runCycles n s = .next (u, reportsOf k s) ∧ (k < n → 4094 < u.pc.toNat) ∧
    ∀ j v, j < k → stepsFrom j s = .next v → v.pc.toNat ≤ 4094 := by
  induction n generalizing s with
  | zero => exact ⟨0, s, le_rfl, rfl, rfl, fun h => absurd h (lt_irrefl 0), fun j _ hj => absurd hj (Nat.not_lt_zero j)⟩
  | succ n ih =>
    rcases Nat.lt_or_ge 4094 s.pc.toNat with hbeyond | hpc
    · exact ⟨0, s, Nat.zero_le _, rfl, runCycles_of_beyond hbeyond _, fun _ => hbeyond,
        fun j _ hj => absurd hj (Nat.not_lt_zero j)⟩
    · obtain ⟨t, ht⟩ := step_next s
      obtain ⟨k, u, hkn, hrun, hcycles, hend, hbegun⟩ := ih t
      refine ⟨k + 1, u, Nat.succ_le_succ hkn, (stepsFrom_succ ht).trans hrun, ?_,
        fun hk => hend (Nat.lt_of_succ_lt_succ hk), fun j v hj hv => ?_⟩
      · rw [reportsOf_succ ht]
        exact runCycles_succ hpc ht hcycles
      · cases j with
        | zero =>
          obtain rfl := Host.Outcome.next.inj hv
          exact hpc
        | succ j => exact hbegun j v (Nat.lt_of_succ_lt_succ hj) ((stepsFrom_succ ht).symm.trans hv)

/-! ## The tick -/

theorem runFrame_of_runCycles {u : State} {faults : List FaultRecord} (h : runCycles n s = .next (u, faults)) :
    runFrame n s = .next { state := u.tickTimers, faults := faults, frameReady := 1 } := by
  rw [runFrame, h]

theorem timerTick_toNat (b : Byte) : (timerTick b).toNat = b.toNat - 1 := by
  unfold timerTick
  split
  · subst b; rfl
  · bv_omega

theorem changesOnly_tickTimers (s : State) : ChangesOnly s s.tickTimers (fun p => p = .delay ∨ p = .sound) := by
  intro p hp
  cases p with
  | delay => exact absurd (.inl rfl) hp
  | sound => exact absurd (.inr rfl) hp
  | random => exact ⟨rfl, rfl⟩
  | _ => rfl

/-- Settles O44: the cycles are the steps, and the tick is what follows them. -/
theorem frameIsStepsThenOneTick : Obligations.FrameIsStepsThenOneTick := by
  intro n s
  obtain ⟨k, u, hkn, hrun, hcycles, hend, hbegun⟩ := runCycles_spec n s
  exact ⟨k, u, _, hkn, hrun, runFrame_of_runCycles hcycles, hend, hbegun, timerTick_toNat u.dt, timerTick_toNat u.st,
    changesOnly_tickTimers u, rfl, rfl⟩

/-- Settles O45: by O44 the frame is steps and one tick, and no step of it writes DT. -/
theorem frameDecrementsDelayTimerOnce : Obligations.FrameDecrementsDelayTimerOnce := by
  intro n s r hframe hnoWrite
  obtain ⟨k, u, r', hkn, hrun, hframe', -, hbegun, hdt, -⟩ := frameIsStepsThenOneTick n s
  obtain rfl := Host.Outcome.next.inj (hframe'.symm.trans hframe)
  have hkept : u.dt = s.dt := by
    refine stepsFrom_keeps (P := fun v => v.dt = s.dt) hrun rfl fun j v t hj hv ht hdtv => ?_
    by_contra hne
    obtain ⟨x, hd, -⟩ := step_delay ht fun h => hne (h.trans hdtv)
    exact hnoWrite j v x (by omega) hv (hbegun j v hj hv) hd
  rw [hdt, hkept]

/-- Settles O46: by O44, as no cycle can begin. -/
theorem frameBeyondMemoryOnlyTicks : Obligations.FrameBeyondMemoryOnlyTicks :=
  fun n s hbeyond => ⟨_, runFrame_of_runCycles (runCycles_of_beyond hbeyond n), rfl, rfl, timerTick_toNat s.dt,
    timerTick_toNat s.st, changesOnly_tickTimers s⟩

/-! ## Legal states -/

theorem State.Inv.tickTimers (h : s.Inv) : s.tickTimers.Inv := h

theorem State.Inv.hostTurn (h : s.Inv) (inp : FrameInput) : ((s.writeKeys inp.keys).supplyRandom inp.random).Inv := h

/-- Settles O47: every step keeps the invariant, the keys and `Q`, and so does the tick. -/
theorem frameCompletesAndKeepsInvariant : Obligations.FrameCompletesAndKeepsInvariant := by
  intro n s hinv
  obtain ⟨k, u, hkn, hrun, hcycles, -⟩ := runCycles_spec n s
  obtain ⟨huinv, huq, hukeys⟩ : u.Inv ∧ u.q = s.q ∧ ∀ j, u.key j = s.key j :=
    stepsFrom_keeps (P := fun v => v.Inv ∧ v.q = s.q ∧ ∀ j, v.key j = s.key j) hrun ⟨hinv, rfl, fun _ => rfl⟩
      fun _ v t _ _ ht ⟨hv, hq, hkeys⟩ => ⟨everyStepKeepsInvariant v t hv ht, (step_keeps_q ht).trans hq,
        fun j => (step_keeps_keys ht j).trans (hkeys j)⟩
  refine ⟨_, runFrame_of_runCycles hcycles, huinv.tickTimers, ?_, huq, hukeys⟩
  calc (reportsOf k s).length
    _ ≤ (List.range k).length := List.length_filterMap_le _ _
    _ = k := List.length_range
    _ ≤ n := hkn

theorem runFrame_frameReady {r : FrameResult} (h : runFrame n s = .next r) : r.frameReady = 1 := by
  obtain ⟨k, u, -, -, hcycles, -⟩ := runCycles_spec n s
  obtain rfl := Host.Outcome.next.inj ((runFrame_of_runCycles hcycles).symm.trans h)
  rfl

theorem session_cons {inp : FrameInput} {rest : List FrameInput} {r : FrameResult} {u : State} {rs : List FrameResult}
    (hframe : hostFrame inp s = .next r) (hrest : session rest r.state = .next (u, rs)) :
    session (inp :: rest) s = .next (u, r :: rs) := by
  simp only [session, hframe, hrest]

/-- Settles O48, by induction on the host's turns. -/
theorem sessionCompletesAndKeepsInvariant : Obligations.SessionCompletesAndKeepsInvariant := by
  intro inputs
  induction inputs with
  | nil => exact fun s hinv => ⟨s, [], rfl, hinv, rfl, fun r hr => absurd hr List.not_mem_nil⟩
  | cons inp rest ih =>
    intro s hinv
    obtain ⟨r, hframe, hrinv, -⟩ := frameCompletesAndKeepsInvariant inp.budget _ (hinv.hostTurn inp)
    obtain ⟨u, rs, hrest, huinv, hlen, hready⟩ := ih r.state hrinv
    exact ⟨u, r :: rs, session_cons hframe hrest, huinv, congrArg Nat.succ hlen,
      List.forall_mem_cons.2 ⟨runFrame_frameReady hframe, hready⟩⟩

/-! ## The fault output is not read -/

/-- A cycle that fetches clears the fault output before anything reads the state. -/
theorem step_of_report (hpc : s.pc.toNat ≤ 4094) (rep : Option FaultRecord) :
    step { s with report := rep } = step s := by
  cases hd : decodeWord s.fetchWord with
  | error r => rw [step_of_unknown hpc hd]; exact step_of_unknown hpc hd
  | ok i => rw [step_of_ok hpc hd]; exact step_of_ok (s := { s with report := rep }) hpc hd

/-- Settles O56: the first cycle, if there is one, forgets the fault output, and without one the states differ in it
alone. -/
theorem faultOutputIsNeverReadBack : Obligations.FaultOutputIsNeverReadBack := by
  intro n s rep
  rcases Nat.lt_or_ge 4094 s.pc.toNat with hbeyond | hpc
  · exact ⟨_, _, runFrame_of_runCycles (runCycles_of_beyond hbeyond n),
      runFrame_of_runCycles (runCycles_of_beyond (s := { s with report := rep }) hbeyond n), rfl, rfl⟩
  · cases n with
    | zero => exact ⟨_, _, rfl, rfl, rfl, rfl⟩
    | succ n =>
      obtain ⟨t, ht⟩ := step_next s
      obtain ⟨k, u, -, -, hcycles, -⟩ := runCycles_spec n t
      exact ⟨_, _, runFrame_of_runCycles (runCycles_succ hpc ht hcycles),
        runFrame_of_runCycles (runCycles_succ hpc ((step_of_report hpc rep).trans ht) hcycles), rfl, rfl⟩

end Sys2Proof.Machine
end

section
/-! Reset (spec 70_reset_and_hazards.md): the three outcomes of `State.boot`, then O49 to O52. -/

namespace Sys2Proof.Machine

variable {q : Quirks} {font : Vector Byte 80} {image : List Byte} {a : Nat}

/-! ## The outcomes of reset -/

theorem boot_of_illegal (h : 0x200 < q.fontBase + 80) :
    State.boot q font image = .refused (.illegalFontBase q.fontBase) := by
  have hlegal : q.legal = false := by rw [← Bool.not_eq_true, Quirks.legal_iff]; omega
  rw [State.boot, hlegal]
  rfl

theorem boot_of_long (h : q.fontBase + 80 ≤ 0x200) (hlong : 3584 < image.length) :
    State.boot q font image = .fault (.loadFault image.length) := by
  rw [State.boot, (Quirks.legal_iff q).2 h]
  exact if_pos hlong

/-- The machine that reset makes (R310). -/
def bootState (q : Quirks) (font : Vector Byte 80) (image : List Byte) : State :=
  { State.reset with q := q, mem := Memory.ofContents (bootByte q font image) 0 4096 }

theorem boot_of_fits (h : q.fontBase + 80 ≤ 0x200) (hfits : image.length ≤ 3584) :
    State.boot q font image = .next (bootState q font image) := by
  rw [State.boot, (Quirks.legal_iff q).2 h]
  exact if_neg (Nat.not_lt.2 hfits)

/-- Settles O49: the font base is checked first, then the image's length. -/
theorem bootRefusesWhatCannotBeLoaded : Obligations.BootRefusesWhatCannotBeLoaded :=
  fun _ _ _ => ⟨boot_of_illegal, boot_of_long⟩

/-! ## The contents of memory after reset -/

theorem bootByte_font (k : Fin 80) : bootByte q font image (q.fontBase + k.val) = font.get k := by
  rw [bootByte, if_pos (by omega), Nat.add_sub_cancel_left, List.getD_eq_getElem _ _ (by simp), Vector.getElem_toList,
    Vector.get_eq_getElem]

theorem bootByte_image (h : q.fontBase + 80 ≤ 0x200) {k : Nat} (hk : k < image.length) :
    bootByte q font image (0x200 + k) = image[k] := by
  rw [bootByte, Config.progBase, if_neg (by omega), if_pos (by omega), Nat.add_sub_cancel_left,
    List.getD_eq_getElem _ _ hk]

theorem bootByte_outside (hfont : a < q.fontBase ∨ q.fontBase + 80 ≤ a)
    (himage : a < 0x200 ∨ 0x200 + image.length ≤ a) : bootByte q font image a = 0 := by
  rw [bootByte, Config.progBase, if_neg (by omega)]
  split
  · exact List.getD_eq_default _ _ (by omega)
  · rfl

theorem bootState_readByte (ha : a < 4096) : (bootState q font image).readByte a = bootByte q font image a := by
  refine (Memory.read_ofContents _ 0 4096 le_rfl a).trans (if_pos ?_)
  omega

theorem bootState_inv (h : q.fontBase + 80 ≤ 0x200) : (bootState q font image).Inv := by
  refine ⟨Memory.wfFrom_ofContents _ 0 4096 le_rfl, (Quirks.legal_iff q).2 h, ?_, fun k => ?_⟩
  · exact show (0x200 : Nat) ≤ 0x10FE by omega
  · simp [bootState, State.reset, Vector.get_eq_getElem]

theorem changesOnly_bootState (q : Quirks) (font : Vector Byte 80) (image : List Byte) :
    ChangesOnly State.reset (bootState q font image) (fun p => p = .quirks ∨ ∃ a, p = .byte a) := by
  intro p hp
  cases p with
  | quirks => exact absurd (.inl rfl) hp
  | byte a => exact absurd (.inr ⟨a, rfl⟩) hp
  | random => exact ⟨rfl, rfl⟩
  | _ => rfl

/-- Settles O50: the three clauses on memory are the three branches of its reset contents. -/
theorem bootLoadsFontAndImage : Obligations.BootLoadsFontAndImage := by
  intro q font image hlegal hfits
  refine ⟨_, boot_of_fits hlegal hfits, bootState_inv hlegal, rfl, rfl, fun k => ?_, fun k hk => ?_,
    fun a ha hfont himage => ?_, changesOnly_bootState q font image⟩
  · rw [bootState_readByte (by omega), bootByte_font]
  · rw [bootState_readByte (by omega), bootByte_image hlegal hk]
  · rw [bootState_readByte ha, bootByte_outside hfont himage]

/-! ## The model's reset state -/

theorem unlisted_of_ge (ha : 80 ≤ a) : Memory.unlisted a = 0 :=
  List.getD_eq_default _ _ ha

/-- The default reset leaves every address as an unlisted one reads. -/
theorem bootByte_default (a : Nat) : bootByte Quirks.default defaultFont [] a = Memory.unlisted a := by
  rcases Nat.lt_or_ge a 80 with hfont | hrest
  · rw [bootByte, if_pos ⟨Nat.zero_le a, show a < 0 + 80 by omega⟩]
    rfl
  · rw [bootByte_outside (.inr (show 0 + 80 ≤ a by omega)) (by simp only [List.length_nil]; omega),
      unlisted_of_ge hrest]

theorem Memory.ofContents_unlisted {contents : Nat → Byte} (h : ∀ a, contents a = Memory.unlisted a) (lo n : Nat) :
    Memory.ofContents contents lo n = [] := by
  induction n generalizing lo with
  | zero => rfl
  | succ n ih => rw [Memory.ofContents, Memory.put, if_pos (h lo), ih]

/-- Settles O51: nothing is listed in the memory of the default reset. -/
theorem resetIsBootOfEmptyImage : Obligations.ResetIsBootOfEmptyImage := by
  have hmem : Memory.ofContents (bootByte Quirks.default defaultFont []) 0 4096 = [] :=
    Memory.ofContents_unlisted bootByte_default 0 4096
  refine (boot_of_fits (by decide) (Nat.zero_le _)).trans ?_
  rw [bootState, hmem]
  rfl

theorem reset_inv : State.reset.Inv := by
  refine ⟨rfl, rfl, ?_, fun k => ?_⟩
  · decide
  · simp [State.reset, Vector.get_eq_getElem]

/-- Settles O52, register by register. -/
theorem resetValuesAndInvariant : Obligations.ResetValuesAndInvariant := by
  refine ⟨reset_inv, rfl, fun r => ?_, rfl, rfl, rfl, rfl, fun k => ?_, Framebuffer.pixel_empty,
    fun a => unlisted_of_ge⟩
  · simp [State.readV, State.reset, Vector.get_eq_getElem]
  · simp [State.key, State.reset, Vector.get_eq_getElem]

end Sys2Proof.Machine
end
